-- ==== Sys2Proof/Word.lean ====
section
/-! DEFINITION. The word types of the engine: 8-bit bytes, 16-bit words, and the index of a V register. -/

namespace Sys2Proof

/-- An 8-bit unsigned value: a V register, a timer, a memory byte (10_state.md R20, R33, R34, R38). -/
abbrev Byte := BitVec 8

/-- A 16-bit unsigned value: I, PC, a stack entry, an opcode (R23, R28, R30, R90). -/
abbrev Word := BitVec 16

/-- The index of a V register, 0 to 15 (R20, R92). -/
abbrev Reg := Fin 16

/-- The number of a key, 0x0 to 0xF (R40). -/
abbrev Key := Fin 16

end Sys2Proof
end

