-- ==== Sys2Proof/Syntax.lean ====
section
/-! DEFINITION. The 34 instructions of base CHIP-8, one constructor per row of spec/opcode_table.json
(30_encoding.md R100), each with the operand fields of its format (R93). -/

namespace Sys2Proof

/-- One instruction. `x` and `y` name V registers, `nn` is an 8-bit immediate, `nnn` a 12-bit address held at 16 bits
with the top four bits 0, `n` a row count 0 to 15 (R92, R97). -/
inductive Instr where
  /-- 00E0, `CLS`: clear the screen (R210). -/
  | cls
  /-- 00EE, `RET`: return from subroutine (R140). -/
  | ret
  /-- 1NNN, `JP NNN`: jump (R141). -/
  | jp (nnn : Word)
  /-- 2NNN, `CALL NNN`: call subroutine (R142). -/
  | call (nnn : Word)
  /-- 3XNN, `SE VX, NN`: skip if equal (R143). -/
  | seImm (x : Reg) (nn : Byte)
  /-- 4XNN, `SNE VX, NN`: skip if different (R144). -/
  | sneImm (x : Reg) (nn : Byte)
  /-- 5XY0, `SE VX, VY`: skip if equal (R145). -/
  | seReg (x y : Reg)
  /-- 6XNN, `LD VX, NN`: load immediate (R163). -/
  | ldImm (x : Reg) (nn : Byte)
  /-- 7XNN, `ADD VX, NN`: add immediate, no flag (R164). -/
  | addImm (x : Reg) (nn : Byte)
  /-- 8XY0, `LD VX, VY`: copy register (R165). -/
  | ldReg (x y : Reg)
  /-- 8XY1, `OR VX, VY` (R166). -/
  | orReg (x y : Reg)
  /-- 8XY2, `AND VX, VY` (R167). -/
  | andReg (x y : Reg)
  /-- 8XY3, `XOR VX, VY` (R168). -/
  | xorReg (x y : Reg)
  /-- 8XY4, `ADD VX, VY`: add with carry out (R169). -/
  | addReg (x y : Reg)
  /-- 8XY5, `SUB VX, VY`: subtract (R170). -/
  | sub (x y : Reg)
  /-- 8XY6, `SHR VX`: shift right by one; the Y field is decoded and not used (R171, R98). -/
  | shr (x y : Reg)
  /-- 8XY7, `SUBN VX, VY`: reverse subtract (R172). -/
  | subn (x y : Reg)
  /-- 8XYE, `SHL VX`: shift left by one; the Y field is decoded and not used (R173, R98). -/
  | shl (x y : Reg)
  /-- 9XY0, `SNE VX, VY`: skip if different (R146). -/
  | sneReg (x y : Reg)
  /-- ANNN, `LD I, NNN` (R190). -/
  | ldI (nnn : Word)
  /-- BNNN, `JP V0, NNN`: jump with offset (R147). -/
  | jpV0 (nnn : Word)
  /-- CXNN, `RND VX, NN`: random byte under mask (R183). -/
  | rnd (x : Reg) (nn : Byte)
  /-- DXYN, `DRW VX, VY, N`: draw a sprite (R211). -/
  | drw (x y : Reg) (n : Nat)
  /-- EX9E, `SKP VX`: skip if the key is pressed (R230). -/
  | skp (x : Reg)
  /-- EXA1, `SKNP VX`: skip if the key is not pressed (R231). -/
  | sknp (x : Reg)
  /-- FX07, `LD VX, DT` (R233). -/
  | ldVxDt (x : Reg)
  /-- FX0A, `LD VX, K`: wait for a key press (R232). -/
  | ldVxK (x : Reg)
  /-- FX15, `LD DT, VX` (R234). -/
  | ldDtVx (x : Reg)
  /-- FX18, `LD ST, VX` (R235). -/
  | ldStVx (x : Reg)
  /-- FX1E, `ADD I, VX` (R191). -/
  | addI (x : Reg)
  /-- FX29, `LD F, VX`: point I at a glyph (R192). -/
  | ldF (x : Reg)
  /-- FX33, `LD B, VX`: store three decimal digits (R193). -/
  | ldB (x : Reg)
  /-- FX55, `LD [I], VX`: store V0 to VX (R194). -/
  | storeRegs (x : Reg)
  /-- FX65, `LD VX, [I]`: load V0 to VX (R195). -/
  | loadRegs (x : Reg)
  deriving DecidableEq, Repr

end Sys2Proof
end

