-- ==== Sys2Proof/WellFormed.lean ====
section
/-! DEFINITION. Which instructions an opcode can spell: the operand ranges of 30_encoding.md R109. -/

namespace Sys2Proof

/-- The range of an `NNN` operand, 0 to 0xFFF: the top four of its 16 bits are 0 (R97, R109). -/
def addrInRange (nnn : Word) : Bool := decide (nnn.toNat < 0x1000)

/-- The range of an `N` operand, a row count 0 to 15 (R97, R109). -/
def rowsInRange (n : Nat) : Bool := decide (n < 16)

/-- An instruction whose operands are in the ranges of R109. Register fields and `NN` are in range by their types. -/
def Instr.wellFormed : Instr → Bool
  | .cls => true
  | .ret => true
  | .jp nnn => addrInRange nnn
  | .call nnn => addrInRange nnn
  | .seImm _ _ => true
  | .sneImm _ _ => true
  | .seReg _ _ => true
  | .ldImm _ _ => true
  | .addImm _ _ => true
  | .ldReg _ _ => true
  | .orReg _ _ => true
  | .andReg _ _ => true
  | .xorReg _ _ => true
  | .addReg _ _ => true
  | .sub _ _ => true
  | .shr _ _ => true
  | .subn _ _ => true
  | .shl _ _ => true
  | .sneReg _ _ => true
  | .ldI nnn => addrInRange nnn
  | .jpV0 nnn => addrInRange nnn
  | .rnd _ _ => true
  | .drw _ _ n => rowsInRange n
  | .skp _ => true
  | .sknp _ => true
  | .ldVxDt _ => true
  | .ldVxK _ => true
  | .ldDtVx _ => true
  | .ldStVx _ => true
  | .addI _ => true
  | .ldF _ => true
  | .ldB _ => true
  | .storeRegs _ => true
  | .loadRegs _ => true

end Sys2Proof
end

