-- ==== Sys2Proof/Decode.lean ====
section
/-! DEFINITION. The decoder of 30_encoding.md R102, total on every word, and the encoder of R110. -/

namespace Sys2Proof

/-! ## Fields of an opcode (R92) -/

/-- `F = op[15:12]`, the opcode family. -/
def fieldF (op : Word) : BitVec 4 := op.extractLsb' 12 4

/-- `X = op[11:8]`, the index of a V register. -/
def fieldX (op : Word) : Reg := (op.extractLsb' 8 4).toFin

/-- `Y = op[7:4]`, the index of a V register. -/
def fieldY (op : Word) : Reg := (op.extractLsb' 4 4).toFin

/-- `N = op[3:0]`, a row count or a secondary selector. -/
def fieldN (op : Word) : BitVec 4 := op.extractLsb' 0 4

/-- `NN = op[7:0]`, an 8-bit immediate or a secondary selector. -/
def fieldNN (op : Word) : Byte := op.extractLsb' 0 8

/-- `NNN = op[11:0]`, zero-extended to 16 bits (R97). -/
def fieldNNN (op : Word) : Word := (op.extractLsb' 0 12).setWidth 16

/-! ## Decoder -/

/-- Why bytes are no instruction. -/
inductive DecodeError where
  /-- The word matches no row of R100 (R104). The engine raises `UnknownOpcode` on it. -/
  | unknownOpcode (op : Word)
  /-- Fewer than two bytes are given: no opcode has that length (R90). `decodeBytes` alone answers it; the engine's fetch
  always has two bytes. -/
  | truncated
  deriving DecidableEq, Repr

/-- Family 0 is matched on the whole word (R102, R105; the spec's decision D23). -/
def decode0 (op : Word) : Except DecodeError Instr :=
  if op = 0x00E0 then .ok .cls
  else if op = 0x00EE then .ok .ret
  else .error (.unknownOpcode op)

/-- Family 8, selected by the low nibble (R101, R102, R107). -/
def decode8 (op : Word) : Except DecodeError Instr :=
  match (fieldN op).toNat with
  | 0x0 => .ok (.ldReg (fieldX op) (fieldY op))
  | 0x1 => .ok (.orReg (fieldX op) (fieldY op))
  | 0x2 => .ok (.andReg (fieldX op) (fieldY op))
  | 0x3 => .ok (.xorReg (fieldX op) (fieldY op))
  | 0x4 => .ok (.addReg (fieldX op) (fieldY op))
  | 0x5 => .ok (.sub (fieldX op) (fieldY op))
  | 0x6 => .ok (.shr (fieldX op) (fieldY op))
  | 0x7 => .ok (.subn (fieldX op) (fieldY op))
  | 0xE => .ok (.shl (fieldX op) (fieldY op))
  | _ => .error (.unknownOpcode op)

/-- Family E, selected by the low byte (R102, R108). -/
def decodeE (op : Word) : Except DecodeError Instr :=
  if fieldNN op = 0x9E then .ok (.skp (fieldX op))
  else if fieldNN op = 0xA1 then .ok (.sknp (fieldX op))
  else .error (.unknownOpcode op)

/-- Family F, selected by the low byte (R102, R108). -/
def decodeF (op : Word) : Except DecodeError Instr :=
  if fieldNN op = 0x07 then .ok (.ldVxDt (fieldX op))
  else if fieldNN op = 0x0A then .ok (.ldVxK (fieldX op))
  else if fieldNN op = 0x15 then .ok (.ldDtVx (fieldX op))
  else if fieldNN op = 0x18 then .ok (.ldStVx (fieldX op))
  else if fieldNN op = 0x1E then .ok (.addI (fieldX op))
  else if fieldNN op = 0x29 then .ok (.ldF (fieldX op))
  else if fieldNN op = 0x33 then .ok (.ldB (fieldX op))
  else if fieldNN op = 0x55 then .ok (.storeRegs (fieldX op))
  else if fieldNN op = 0x65 then .ok (.loadRegs (fieldX op))
  else .error (.unknownOpcode op)

/-- The decode algorithm of R102: one instruction of R100, or unknown, for each of the 65536 words. -/
def decode (op : Word) : Except DecodeError Instr :=
  match (fieldF op).toNat with
  | 0x0 => decode0 op
  | 0x1 => .ok (.jp (fieldNNN op))
  | 0x2 => .ok (.call (fieldNNN op))
  | 0x3 => .ok (.seImm (fieldX op) (fieldNN op))
  | 0x4 => .ok (.sneImm (fieldX op) (fieldNN op))
  | 0x5 => if fieldN op = 0 then .ok (.seReg (fieldX op) (fieldY op)) else .error (.unknownOpcode op)
  | 0x6 => .ok (.ldImm (fieldX op) (fieldNN op))
  | 0x7 => .ok (.addImm (fieldX op) (fieldNN op))
  | 0x8 => decode8 op
  | 0x9 => if fieldN op = 0 then .ok (.sneReg (fieldX op) (fieldY op)) else .error (.unknownOpcode op)
  | 0xA => .ok (.ldI (fieldNNN op))
  | 0xB => .ok (.jpV0 (fieldNNN op))
  | 0xC => .ok (.rnd (fieldX op) (fieldNN op))
  | 0xD => .ok (.drw (fieldX op) (fieldY op) (fieldN op).toNat)
  | 0xE => decodeE op
  | _ => decodeF op

/-! ## Byte order (R62, R91) -/

/-- The opcode whose byte at the lower address is `hi`: `op = hi ++ lo`. -/
def wordOfBytes (hi lo : Byte) : Word := hi ++ lo

/-- `op[15:8]`, the byte at the lower address. -/
def highByte (op : Word) : Byte := op.extractLsb' 8 8

/-- `op[7:0]`, the byte at the higher address. -/
def lowByte (op : Word) : Byte := op.extractLsb' 0 8

/-- Decode the instruction at the head of a list of bytes, high byte first, and return the bytes after it. -/
def decodeBytes : List Byte → Except DecodeError (Instr × List Byte)
  | hi :: lo :: rest => (decode (wordOfBytes hi lo)).map fun i => (i, rest)
  | _ => .error .truncated

/-- The instruction read from a word numbered as spec/opcode_table.json numbers it, through the two bytes it has in
memory (R91). Every row of the table has 16 bits. -/
def decodeTableWord (nbits w : Nat) : Option Instr :=
  match decodeBytes [highByte (BitVec.ofNat 16 (w % 2 ^ nbits)), lowByte (BitVec.ofNat 16 (w % 2 ^ nbits))] with
  | .ok (i, _) => some i
  | .error _ => none

/-! ## Encoder (R110) -/

/-- `X << 8`. -/
def placeX (x : Reg) : Word := BitVec.ofNat 16 x.val <<< 8

/-- `Y << 4`. -/
def placeY (y : Reg) : Word := BitVec.ofNat 16 y.val <<< 4

/-- `NN` in bits 7:0. -/
def placeNN (nn : Byte) : Word := nn.setWidth 16

/-- `op = match OR (X << 8)` with the fields the format has (R93, R110). -/
def encode : Instr → Word
  | .cls => 0x00E0
  | .ret => 0x00EE
  | .jp nnn => 0x1000 ||| nnn
  | .call nnn => 0x2000 ||| nnn
  | .seImm x nn => 0x3000 ||| placeX x ||| placeNN nn
  | .sneImm x nn => 0x4000 ||| placeX x ||| placeNN nn
  | .seReg x y => 0x5000 ||| placeX x ||| placeY y
  | .ldImm x nn => 0x6000 ||| placeX x ||| placeNN nn
  | .addImm x nn => 0x7000 ||| placeX x ||| placeNN nn
  | .ldReg x y => 0x8000 ||| placeX x ||| placeY y
  | .orReg x y => 0x8001 ||| placeX x ||| placeY y
  | .andReg x y => 0x8002 ||| placeX x ||| placeY y
  | .xorReg x y => 0x8003 ||| placeX x ||| placeY y
  | .addReg x y => 0x8004 ||| placeX x ||| placeY y
  | .sub x y => 0x8005 ||| placeX x ||| placeY y
  | .shr x y => 0x8006 ||| placeX x ||| placeY y
  | .subn x y => 0x8007 ||| placeX x ||| placeY y
  | .shl x y => 0x800E ||| placeX x ||| placeY y
  | .sneReg x y => 0x9000 ||| placeX x ||| placeY y
  | .ldI nnn => 0xA000 ||| nnn
  | .jpV0 nnn => 0xB000 ||| nnn
  | .rnd x nn => 0xC000 ||| placeX x ||| placeNN nn
  | .drw x y n => 0xD000 ||| placeX x ||| placeY y ||| BitVec.ofNat 16 n
  | .skp x => 0xE09E ||| placeX x
  | .sknp x => 0xE0A1 ||| placeX x
  | .ldVxDt x => 0xF007 ||| placeX x
  | .ldVxK x => 0xF00A ||| placeX x
  | .ldDtVx x => 0xF015 ||| placeX x
  | .ldStVx x => 0xF018 ||| placeX x
  | .addI x => 0xF01E ||| placeX x
  | .ldF x => 0xF029 ||| placeX x
  | .ldB x => 0xF033 ||| placeX x
  | .storeRegs x => 0xF055 ||| placeX x
  | .loadRegs x => 0xF065 ||| placeX x

/-- The two bytes of an instruction, high byte first (R91, R110). -/
def encodeBytes (i : Instr) : List Byte := [highByte (encode i), lowByte (encode i)]

/-! ## The opcode map (R100) -/

/-- One row of R100: an opcode `op` is the instruction of the row iff `op AND mask = pattern`. -/
structure OpcodeRow where
  mnemonic : String
  mask : Word
  pattern : Word
  deriving DecidableEq, Repr

/-- Whether an opcode is the instruction of a row (R100). -/
def OpcodeRow.holds (r : OpcodeRow) (op : Word) : Bool := decide (op &&& r.mask = r.pattern)

/-- The row of R100 an instruction belongs to, with the mnemonic as spec/opcode_table.json spells it. -/
def Instr.row : Instr → OpcodeRow
  | .cls => ⟨"CLS", 0xFFFF, 0x00E0⟩
  | .ret => ⟨"RET", 0xFFFF, 0x00EE⟩
  | .jp _ => ⟨"JP_NNN", 0xF000, 0x1000⟩
  | .call _ => ⟨"CALL_NNN", 0xF000, 0x2000⟩
  | .seImm _ _ => ⟨"SE_VX__NN", 0xF000, 0x3000⟩
  | .sneImm _ _ => ⟨"SNE_VX__NN", 0xF000, 0x4000⟩
  | .seReg _ _ => ⟨"SE_VX__VY", 0xF00F, 0x5000⟩
  | .ldImm _ _ => ⟨"LD_VX__NN", 0xF000, 0x6000⟩
  | .addImm _ _ => ⟨"ADD_VX__NN", 0xF000, 0x7000⟩
  | .ldReg _ _ => ⟨"LD_VX__VY", 0xF00F, 0x8000⟩
  | .orReg _ _ => ⟨"OR_VX__VY", 0xF00F, 0x8001⟩
  | .andReg _ _ => ⟨"AND_VX__VY", 0xF00F, 0x8002⟩
  | .xorReg _ _ => ⟨"XOR_VX__VY", 0xF00F, 0x8003⟩
  | .addReg _ _ => ⟨"ADD_VX__VY", 0xF00F, 0x8004⟩
  | .sub _ _ => ⟨"SUB_VX__VY", 0xF00F, 0x8005⟩
  | .shr _ _ => ⟨"SHR_VX", 0xF00F, 0x8006⟩
  | .subn _ _ => ⟨"SUBN_VX__VY", 0xF00F, 0x8007⟩
  | .shl _ _ => ⟨"SHL_VX", 0xF00F, 0x800E⟩
  | .sneReg _ _ => ⟨"SNE_VX__VY", 0xF00F, 0x9000⟩
  | .ldI _ => ⟨"LD_I__NNN", 0xF000, 0xA000⟩
  | .jpV0 _ => ⟨"JP_V0__NNN", 0xF000, 0xB000⟩
  | .rnd _ _ => ⟨"RND_VX__NN", 0xF000, 0xC000⟩
  | .drw _ _ _ => ⟨"DRW_VX__VY__N", 0xF000, 0xD000⟩
  | .skp _ => ⟨"SKP_VX", 0xF0FF, 0xE09E⟩
  | .sknp _ => ⟨"SKNP_VX", 0xF0FF, 0xE0A1⟩
  | .ldVxDt _ => ⟨"LD_VX__DT", 0xF0FF, 0xF007⟩
  | .ldVxK _ => ⟨"LD_VX__K", 0xF0FF, 0xF00A⟩
  | .ldDtVx _ => ⟨"LD_DT__VX", 0xF0FF, 0xF015⟩
  | .ldStVx _ => ⟨"LD_ST__VX", 0xF0FF, 0xF018⟩
  | .addI _ => ⟨"ADD_I__VX", 0xF0FF, 0xF01E⟩
  | .ldF _ => ⟨"LD_F__VX", 0xF0FF, 0xF029⟩
  | .ldB _ => ⟨"LD_B__VX", 0xF0FF, 0xF033⟩
  | .storeRegs _ => ⟨"LD__I___VX", 0xF0FF, 0xF055⟩
  | .loadRegs _ => ⟨"LD_VX___I", 0xF0FF, 0xF065⟩

/-- The complete opcode map, in the order of R100. -/
def opcodeTable : List OpcodeRow :=
  [Instr.row .cls, Instr.row .ret, Instr.row (.jp 0), Instr.row (.call 0), Instr.row (.seImm 0 0),
    Instr.row (.sneImm 0 0), Instr.row (.seReg 0 0), Instr.row (.ldImm 0 0), Instr.row (.addImm 0 0)] ++
  [Instr.row (.ldReg 0 0), Instr.row (.orReg 0 0), Instr.row (.andReg 0 0), Instr.row (.xorReg 0 0),
    Instr.row (.addReg 0 0), Instr.row (.sub 0 0), Instr.row (.shr 0 0), Instr.row (.subn 0 0), Instr.row (.shl 0 0)] ++
  [Instr.row (.sneReg 0 0), Instr.row (.ldI 0), Instr.row (.jpV0 0), Instr.row (.rnd 0 0), Instr.row (.drw 0 0 0)] ++
  [Instr.row (.skp 0), Instr.row (.sknp 0), Instr.row (.ldVxDt 0), Instr.row (.ldVxK 0), Instr.row (.ldDtVx 0),
    Instr.row (.ldStVx 0), Instr.row (.addI 0), Instr.row (.ldF 0), Instr.row (.ldB 0), Instr.row (.storeRegs 0),
    Instr.row (.loadRegs 0)]

end Sys2Proof
end

