-- ==== Sys2Proof/Config.lean ====
section
/-! DEFINITION. The engine's fixed sizes (00_scope.md R6) and the free values the spec leaves open. -/

namespace Sys2Proof.Config

/-- `MEM_SIZE`: memory has the addresses 0x000 to 0xFFF (R6, R38). -/
def memSize : Nat := 4096

/-- `PROG_BASE`: the first byte of the loaded program and the reset value of PC (R6). -/
def progBase : Nat := 0x200

/-- `PROG_MAX`: the largest program image in bytes, `4096 - 0x200` (R6, R252). -/
def progMax : Nat := 3584

/-- `STACK_DEPTH`: the entries of the call stack (R6, R30). -/
def stackDepth : Nat := 16

/-- `FONT_BASE`: the address of glyph 0 (R6; 92_eei_decisions.md D6).
DESIGN CHOICE: the spec leaves it open as a parameter with this default (log entry 1). Unsafe for a program that
hard-codes glyph addresses. -/
def fontBase : Nat := 0x050

/-- `FB_W` and `FB_H`: the framebuffer is 64 columns by 32 rows of one-bit pixels (R6, R39). -/
abbrev fbWidth : Nat := 64

/-- The number of rows of the framebuffer (R6, R39). -/
abbrev fbHeight : Nat := 32

/-- The framebuffer's grid: `FB[y][x]` is row `y`, column `x` (R39). -/
abbrev Frame := Vector (Vector Bool fbWidth) fbHeight

/-! Free values: constants with no body, so that nothing can be proved of their values. Each is applied to the plain
counter `draws` of State, which the drawing step advances (log entry 3). -/

/-- The byte that CXNN draws, any value 0 to 255 (42_data_and_alu.md R183; R45, D24). -/
opaque randomByte : Nat → Byte

/-! What a fatal error leaves without a defined value: V, I, PC, stack, timers, memory, framebuffer, pad
(60_exceptions.md R268; log entry 2). -/

/-- The V file after a fatal error. -/
opaque lostV : Nat → Vector Byte 16

/-- I after a fatal error. -/
opaque lostI : Nat → Word

/-- PC after a fatal error. -/
opaque lostPc : Nat → Word

/-- The call stack after a fatal error. -/
opaque lostStack : Nat → List Word

/-- DT after a fatal error. -/
opaque lostDt : Nat → Byte

/-- ST after a fatal error. -/
opaque lostSt : Nat → Byte

/-- Memory after a fatal error. -/
opaque lostMem : Nat → List (Nat × Byte)

/-- The framebuffer after a fatal error. -/
opaque lostFb : Nat → Frame

/-- The key pad after a fatal error. -/
opaque lostKeys : Nat → Vector Bool 16

end Sys2Proof.Config
end

