-- ==== Sys2Proof/Machine/State.lean ====
section
/-! DEFINITION. The engine's state as plain data (10_state.md), with the host's transactions still to come. -/

namespace Sys2Proof.Machine

/-- The fault record: the cause of a fatal error and the information it carries (60_exceptions.md R250, R251).
A fatal error is a NEXT state of the model, with MODE `Faulted` and this record in it (R267; log entry 2): no step
answers `Outcome.fault`. `pc0` is the address the faulting instruction was fetched from. -/
inductive Fault where
  /-- Code 1. Raised by `Reset(program)` when the program is longer than 3584 bytes (R252, R301). Safe: nothing but the
  record is defined afterwards. -/
  | loadError (length : Nat)
  /-- Code 2. Raised by the fetch of `Step()` when `PC < 0x200` or `PC > 0xFFE` (R122, R253). Safe: the machine stops
  where a more lenient engine would go on. -/
  | fetchError (pc0 : Word)
  /-- Code 3. Raised by 2NNN with 16 entries on the stack (R31, R254). Safe: nothing but the record is defined
  afterwards. -/
  | stackOverflow (pc0 : Word)
  /-- Code 4. Raised by 00EE on an empty stack (R32, R255). Safe: nothing but the record is defined afterwards. -/
  | stackUnderflow (pc0 : Word)
  /-- Code 5. Raised by the decode of `Step()` on a word that is none of the 34 instructions (R104, R124, R256). Safe:
  the machine stops where a more lenient engine would go on. -/
  | unknownOpcode (pc0 : Word) (op : Word)
  /-- Code 6. Raised by DXYN, FX33, FX55 and FX65 on a data address above 0xFFF; `addr` is the lowest such address of
  the instruction (R60, R61, R257). Safe: the machine stops where a masking engine would go on. -/
  | memoryOutOfBounds (pc0 : Word) (addr : Nat)
  deriving DecidableEq, Repr

/-- Why the model gives a step no meaning. No step of this model is refused: every instruction has its meaning. -/
inductive Refusal where
  /-- Raised by an arm of `exec` whose instruction has no meaning yet; no arm is left. Safe: nothing is claimed of the
  instruction. -/
  | notModelled (mnemonic : String)
  deriving DecidableEq, Repr

/-- MODE, the engine's run state (R35). -/
inductive Mode where
  /-- Normal step execution. -/
  | running
  /-- Suspended by FX0A until a key press; `x` is the wait target, the register the key will be written to (R43). -/
  | waitingForKey (x : Reg)
  /-- After a fatal error, with the fault record (R36); left only by `Reset`. -/
  | faulted (record : Fault)
  deriving DecidableEq, Repr

/-- What the host may do, one at a time and in any order (00_scope.md R19; R260, R278). -/
inductive Transaction where
  /-- `Reset(program)` (R300). -/
  | reset (program : List Byte)
  /-- `Step()` (R120). -/
  | step
  /-- `TickTimers()` (R272). -/
  | tickTimers
  /-- `KeyPress(k)` (R261). -/
  | keyPress (k : Key)
  /-- `KeyRelease(k)` (R262). -/
  | keyRelease (k : Key)
  deriving DecidableEq, Repr

/-- Memory as (address, byte) pairs: addresses strictly rising, no entry equal to what an unlisted address reads as
(`Memory.wf` in Ops.lean). -/
abbrev Memory := List Host.Cell

/-- Everything the spec gives the engine (10_state.md R46), then the model's own two fields. -/
structure State where
  /-- V0 to VF; VF is entry 15 (R20, R21). -/
  v : Vector Byte 16
  /-- I (R28). -/
  i : Word
  /-- PC (R23). -/
  pc : Word
  /-- STACK, the last entry is the top (R30). -/
  stack : List Word
  /-- DT (R33). -/
  dt : Byte
  /-- ST (R34). -/
  st : Byte
  /-- MODE, with the wait target and the fault record (R35, R36, R43). -/
  mode : Mode
  /-- MEM (R38). -/
  mem : Memory
  /-- FB (R39). -/
  fb : Config.Frame
  /-- KEY (R40). -/
  keys : Vector Bool 16
  /-- The model's own: how many free values have been drawn (log entry 3). -/
  draws : Nat
  /-- The model's own: the host's transactions still to come; `Step()` when there is none (log entry 4). -/
  schedule : List Transaction
  deriving DecidableEq, Repr

/-- The state after `Reset([])`: the values of R46 and R302, with no program image in memory (log entry 5).
An empty memory list reads as the font and zeros (`unlistedByte` in Ops.lean). DESIGN CHOICE: `draws` and `schedule`
are the model's own (log entries 3 and 4). -/
def State.reset : State where
  v := Vector.replicate 16 0
  i := 0
  pc := BitVec.ofNat 16 Config.progBase
  stack := []
  dt := 0
  st := 0
  mode := .running
  mem := []
  fb := Vector.replicate 32 (Vector.replicate 64 false)
  keys := Vector.replicate 16 false
  draws := 0
  schedule := []

/-- What a meaning answers. -/
abbrev Result := Host.Outcome State Fault Refusal

end Sys2Proof.Machine
end

