-- ==== Sys2Proof/Machine/Ops.lean ====
section
/-! DEFINITION. The named operations over registers, memory, stack, framebuffer and MODE, and the entry into a fatal
error. In every one PC already holds the address of the following instruction (00_scope.md R16). -/

namespace Sys2Proof.Machine

/-! ## V registers (R20, R21) -/

/-- `V[x]`. -/
def State.reg (s : State) (x : Reg) : Byte := s.v[x]

/-- `V[x] <- b`. -/
def State.setReg (s : State) (x : Reg) (b : Byte) : State := { s with v := s.v.set x b }

/-- The index of VF (R21). -/
def regF : Reg := 15

/-- The address the executing instruction was fetched from: PC has been advanced past it (R23, R123, R251). -/
def State.fetchAddr (s : State) : Word := s.pc - 2

/-! ## Fatal errors (60_exceptions.md R267 to R269) -/

/-- Fault entry: MODE becomes `Faulted` and the record is filled (R267); every other piece of state of the engine has
no defined value from then on, so it takes free values (R268; log entry 2). There is no return but `Reset` (R269). -/
def raise (f : Fault) (s : State) : State where
  v := Config.lostV s.draws
  i := Config.lostI s.draws
  pc := Config.lostPc s.draws
  stack := Config.lostStack s.draws
  dt := Config.lostDt s.draws
  st := Config.lostSt s.draws
  mode := .faulted f
  mem := Config.lostMem s.draws
  fb := Config.lostFb s.draws
  keys := Config.lostKeys s.draws
  draws := s.draws + 1
  schedule := s.schedule

/-- An operation of `s` either gives a state or raises one fatal error, which ends the step at once (R15, R125, R267). -/
def complete (s : State) : Except Fault State → Result
  | .ok t => .next t
  | .error f => .next (raise f s)

/-- MODE is `Faulted` (R35). -/
def Mode.isFaulted : Mode → Bool
  | .running => false
  | .waitingForKey _ => false
  | .faulted _ => true

/-- The fault record, defined only while MODE is `Faulted` (R36). -/
def State.faultRecord (s : State) : Option Fault :=
  match s.mode with
  | .running => none
  | .waitingForKey _ => none
  | .faulted f => some f

/-- The numeric code of a cause (R250; the spec's decision D5). -/
def Fault.code : Fault → Nat
  | .loadError _ => 1
  | .fetchError _ => 2
  | .stackOverflow _ => 3
  | .stackUnderflow _ => 4
  | .unknownOpcode _ _ => 5
  | .memoryOutOfBounds _ _ => 6

/-! ## Memory (20_memory.md) -/

/-- The 80 bytes of the font, glyph after glyph, top row first (70_reset_and_hazards.md R303; the spec's decision D7). -/
def font : List Byte :=
  [0xF0, 0x90, 0x90, 0x90, 0xF0] ++ [0x20, 0x60, 0x20, 0x20, 0x70] ++
  [0xF0, 0x10, 0xF0, 0x80, 0xF0] ++ [0xF0, 0x10, 0xF0, 0x10, 0xF0] ++
  [0x90, 0x90, 0xF0, 0x10, 0x10] ++ [0xF0, 0x80, 0xF0, 0x10, 0xF0] ++
  [0xF0, 0x80, 0xF0, 0x90, 0xF0] ++ [0xF0, 0x10, 0x20, 0x40, 0x40] ++
  [0xF0, 0x90, 0xF0, 0x90, 0xF0] ++ [0xF0, 0x90, 0xF0, 0x10, 0xF0] ++
  [0xF0, 0x90, 0xF0, 0x90, 0x90] ++ [0xE0, 0x90, 0xE0, 0x90, 0xE0] ++
  [0xF0, 0x80, 0x80, 0x80, 0xF0] ++ [0xE0, 0x90, 0x90, 0x90, 0xE0] ++
  [0xF0, 0x80, 0xF0, 0x80, 0xF0] ++ [0xF0, 0x80, 0xF0, 0x80, 0x80]

/-- What an address reads as that nothing has written since reset: the font at FONT_BASE, 0x00 elsewhere
(R46, R69, R302; the spec's decisions D6, D7, D8; log entry 6). -/
def unlistedByte (a : Nat) : Byte :=
  if Config.fontBase ≤ a ∧ a < Config.fontBase + 80 then font.getD (a - Config.fontBase) 0 else 0

/-- `MEM[a]` (R68). -/
def Memory.read : Memory → Nat → Byte
  | [], a => unlistedByte a
  | (b, c) :: rest, a => if b = a then c else Memory.read rest a

/-- The memory's canonical form: addresses strictly rising and below 4096, and no entry equal to what its address reads
as when unlisted. -/
def Memory.wf : Memory → Bool
  | [] => true
  | (a, c) :: rest =>
    decide (a < Config.memSize) && decide (c ≠ unlistedByte a) && rest.all (fun e => decide (a < e.1)) && Memory.wf rest

/-- Put an entry before the first one with a larger address. -/
def Memory.insertCell : Memory → Nat → Byte → Memory
  | [], a, c => [(a, c)]
  | e :: rest, a, c => if a < e.1 then (a, c) :: e :: rest else e :: Memory.insertCell rest a c

/-- `MEM[a] <- c` in canonical form: the old entry goes, and a new one comes unless `c` is what `a` reads as when
unlisted. -/
def Memory.write (m : Memory) (a : Nat) (c : Byte) : Memory :=
  let rest := m.filter fun e => !decide (e.1 = a)
  if c = unlistedByte a then rest else Memory.insertCell rest a c

/-- Write a list of bytes at ascending addresses from `a`. -/
def Memory.writeList : Memory → Nat → List Byte → Memory
  | m, _, [] => m
  | m, a, c :: cs => Memory.writeList (m.write a c) (a + 1) cs

/-- Whether an address is one of the 4096, 0 to 0xFFF (R60). -/
def addrExists (a : Nat) : Bool := decide (a ≤ 0xFFF)

/-- The lowest of the addresses `a`, `a + 1`, …, `a + count - 1` that does not exist. The sums are never reduced modulo
2^12 or 2^16 (R60, R61, R251; the spec's decision D3). -/
def lowestBad (a : Nat) : Nat → Option Nat
  | 0 => none
  | count + 1 => if addrExists a then lowestBad (a + 1) count else some a

/-- `MemRead(a + k, 1)` for `k` from 0 to `count - 1`: all addresses are checked first, then all bytes are read
(R13, R60, R61). -/
def readBytes (s : State) (a count : Nat) : Except Fault (List Byte) :=
  match lowestBad a count with
  | some bad => .error (.memoryOutOfBounds s.fetchAddr bad)
  | none => .ok ((List.range count).map fun k => s.mem.read (a + k))

/-- `MemWrite(a + k, 1, cs[k])` for each byte: all addresses are checked first, then all bytes are written
(R13, R60, R61). -/
def writeBytes (s : State) (a : Nat) (cs : List Byte) : Except Fault State :=
  match lowestBad a cs.length with
  | some bad => .error (.memoryOutOfBounds s.fetchAddr bad)
  | none => .ok { s with mem := s.mem.writeList a cs }

/-! ## Call stack (R30 to R32) -/

/-- `Push(w)` (R31). -/
def push (s : State) (w : Word) : Except Fault State :=
  if Config.stackDepth ≤ s.stack.length then .error (.stackOverflow s.fetchAddr)
  else .ok { s with stack := s.stack ++ [w] }

/-- `Pop()`: the top entry and the state without it (R32). -/
def pop (s : State) : Except Fault (Word × State) :=
  match s.stack.getLast? with
  | none => .error (.stackUnderflow s.fetchAddr)
  | some w => .ok (w, { s with stack := s.stack.dropLast })

/-! ## Control (R15, R148) -/

/-- `PC <- target`. -/
def State.jump (s : State) (target : Word) : State := { s with pc := target }

/-- `if cond then PC <- PC + 2`, past the following instruction (R15, R148). -/
def skipIf (cond : Bool) (s : State) : State := if cond then s.jump (s.pc + 2) else s

/-! ## Framebuffer (44_display.md) -/

/-- Every pixel off (R210). -/
def clearFrame : Config.Frame := Vector.replicate 32 (Vector.replicate 64 false)

/-- `FB[py][px]` (R39). -/
def pixel (fb : Config.Frame) (py : Fin 32) (px : Fin 64) : Bool := fb[py][px]

/-- `FB[py][px] <- b`. -/
def setPixel (fb : Config.Frame) (py : Fin 32) (px : Fin 64) (b : Bool) : Config.Frame := fb.set py (fb[py].set px b)

/-- One lit sprite pixel: `if FB[py][px] = 1 then hit = 1`, then `FB[py][px] <- FB[py][px] XOR 1` (R211). -/
def flipPixel (acc : Config.Frame × Bool) (py : Fin 32) (px : Fin 64) : Config.Frame × Bool :=
  (setPixel acc.1 py px (!pixel acc.1 py px), acc.2 || pixel acc.1 py px)

/-- One row of a sprite: for `c` from 0 to 7, bit `7 - c` of the byte is the pixel in column `x0 + c` modulo 64
(R211, R212; the spec's decision D16). -/
def drawRow (x0 : Nat) (py : Fin 32) (row : Byte) (acc : Config.Frame × Bool) : Config.Frame × Bool :=
  (List.range 8).foldl
    (fun acc c => if row.getLsbD (7 - c) then flipPixel acc py (Fin.ofNat 64 (x0 + c)) else acc) acc

/-- The rows of a sprite from row `y0` down, each modulo 32 (R211, R212). -/
def drawRows (x0 : Nat) : Nat → List Byte → Config.Frame × Bool → Config.Frame × Bool
  | _, [], acc => acc
  | y, row :: rows, acc => drawRows x0 (y + 1) rows (drawRow x0 (Fin.ofNat 32 y) row acc)

/-- The loops of R211: the new framebuffer and whether any pixel went from on to off. -/
def drawSprite (fb : Config.Frame) (x0 y0 : Nat) (rows : List Byte) : Config.Frame × Bool :=
  drawRows x0 y0 rows (fb, false)

/-! ## Key pad, tone and the random source -/

/-- `KEY[k] = 1` (R40). -/
def State.keyDown (s : State) (k : Key) : Bool := s.keys[k]

/-- The tone output, on exactly while `ST > 0` (R40, R276). -/
def State.tone (s : State) : Bool := decide (0 < s.st.toNat)

/-- `RandomByte()`: a fresh free byte, and the state with the draw counted (R183; log entry 3). -/
def drawByte (s : State) : Byte × State := (Config.randomByte s.draws, { s with draws := s.draws + 1 })

end Sys2Proof.Machine
end

