-- ==== Sys2Proof/Machine/Operands.lean ====
section
/-! DEFINITION. The operand forms: values the instructions compute from fields and register contents
(30_encoding.md R97 to R99, 43_index_and_memory.md R196). -/

namespace Sys2Proof.Machine

/-- `VX[3:0]`, the low nibble of a register, as a number 0 to 15 (R99; the spec's decision D20). -/
def lowNibble (b : Byte) : Fin 16 := (b.extractLsb' 0 4).toFin

/-- The key a register names: its low nibble (R99, R236). -/
def keyOf (s : State) (x : Reg) : Key := lowNibble (s.reg x)

/-- The address of a glyph, `FONT_BASE + 5 * VX[3:0]` (R192; the spec's decisions D6 and D20). -/
def glyphAddr (b : Byte) : Word := BitVec.ofNat 16 (Config.fontBase + 5 * (lowNibble b).val)

/-- `I + VX` at 16 bits, wrapping at 2^16 (R191). -/
def indexPlus (s : State) (x : Reg) : Word := BitVec.ofNat 16 (s.i.toNat + (s.reg x).toNat)

/-- `NNN + V0`, 0 to 0x10FE, not reduced to 12 bits (R147; the spec's decision D22). -/
def offsetTarget (s : State) (nnn : Word) : Word := BitVec.ofNat 16 (nnn.toNat + (s.reg 0).toNat)

/-- The one addressing mode: the address in I, to which an instruction adds its own byte counts as an unbounded number
(R61, R196). -/
def indexAddr (s : State) : Nat := s.i.toNat

/-- The decimal digits of a byte: hundreds, tens, ones (R193; the spec's decision D19). -/
def bcdDigits (b : Byte) : List Byte :=
  [BitVec.ofNat 8 (b.toNat / 100), BitVec.ofNat 8 (b.toNat / 10 % 10), BitVec.ofNat 8 (b.toNat % 10)]

/-- The values of V0 to VX in ascending order (R194). -/
def regsUpTo (s : State) (x : Reg) : List Byte := (List.range (x.val + 1)).map fun k => s.reg (Fin.ofNat 16 k)

/-- `V[k] <- bs[k]` for each byte given, in ascending order (R195). -/
def loadRegList (s : State) (bs : List Byte) : State := { s with v := Vector.ofFn fun k => bs.getD k.val s.v[k] }

/-- The column of a sprite's top-left pixel, `V[X] mod 64` (R211). -/
def spriteColumn (s : State) (x : Reg) : Nat := (s.reg x).toNat % 64

/-- The row of a sprite's top-left pixel, `V[Y] mod 32` (R211). -/
def spriteRow (s : State) (y : Reg) : Nat := (s.reg y).toNat % 32

end Sys2Proof.Machine
end

