-- ==== Sys2Proof/Machine/Control.lean ====
section
/-! DEFINITION. Control transfer instructions (41_control_flow.md). PC already holds pc0 + 2 (R16, R123). -/

namespace Sys2Proof.Machine

/-- 00EE: `PC <- Pop()`, or `StackUnderflow` (R140). -/
def execRet (s : State) : Result := complete s ((pop s).map fun p => p.2.jump p.1)

/-- 1NNN: `PC <- NNN` (R141). -/
def execJp (nnn : Word) (s : State) : Result := .next (s.jump nnn)

/-- 2NNN: `Push(PC)`, then `PC <- NNN`, or `StackOverflow` (R142). -/
def execCall (nnn : Word) (s : State) : Result := complete s ((push s s.pc).map fun t => t.jump nnn)

/-- 3XNN: skip if `V[X] = NN` (R143). -/
def execSeImm (x : Reg) (nn : Byte) (s : State) : Result := .next (skipIf (decide (s.reg x = nn)) s)

/-- 4XNN: skip if `V[X] != NN` (R144). -/
def execSneImm (x : Reg) (nn : Byte) (s : State) : Result := .next (skipIf (decide (s.reg x ≠ nn)) s)

/-- 5XY0: skip if `V[X] = V[Y]` (R145). -/
def execSeReg (x y : Reg) (s : State) : Result := .next (skipIf (decide (s.reg x = s.reg y)) s)

/-- 9XY0: skip if `V[X] != V[Y]` (R146). -/
def execSneReg (x y : Reg) (s : State) : Result := .next (skipIf (decide (s.reg x ≠ s.reg y)) s)

/-- BNNN: `PC <- NNN + V[0]` (R147). -/
def execJpV0 (nnn : Word) (s : State) : Result := .next (s.jump (offsetTarget s nnn))

end Sys2Proof.Machine
end

