-- ==== Sys2Proof/Machine/Flags.lean ====
section
/-! DEFINITION. The six computations of VF (10_state.md R26) and the order in which result and flag are written
(42_data_and_alu.md R162). -/

namespace Sys2Proof.Machine

/-- A flag as the value VF takes: 1 or 0 (R26). -/
def flagByte (b : Bool) : Byte := if b then 1 else 0

/-- 8XY4: carry out of bit 7, `a + b > 255` (R26, R169). -/
def carryOut (a b : Byte) : Bool := decide (255 < a.toNat + b.toNat)

/-- 8XY5 and 8XY7: no borrow in `a - b`, that is `a >= b` (R26, R170, R172; the spec's decision D12). -/
def noBorrow (a b : Byte) : Bool := decide (b.toNat ≤ a.toNat)

/-- 8XY6: the bit shifted out on the right (R26, R171). -/
def bitOutRight (a : Byte) : Bool := a.getLsbD 0

/-- 8XYE: the bit shifted out on the left (R26, R173). -/
def bitOutLeft (a : Byte) : Bool := a.getLsbD 7

/-- `trunc_8(a + b)` (R160). -/
def addWrap (a b : Byte) : Byte := BitVec.ofNat 8 (a.toNat + b.toNat)

/-- `trunc_8(a - b)`: `a - b` if `a >= b`, else `a - b + 256` (R160). -/
def subWrap (a b : Byte) : Byte :=
  if b.toNat ≤ a.toNat then BitVec.ofNat 8 (a.toNat - b.toNat) else BitVec.ofNat 8 (a.toNat + 256 - b.toNat)

/-- `VF <- flag`. -/
def setFlag (s : State) (b : Bool) : State := s.setReg regF (flagByte b)

/-- The result goes to VX first and the flag to VF last, so that with X = F the flag survives (R162; the spec's
decision D13). -/
def writeResultThenFlag (s : State) (x : Reg) (result : Byte) (flag : Bool) : State :=
  setFlag (s.setReg x result) flag

end Sys2Proof.Machine
end

