-- ==== Sys2Proof/Machine/Data.lean ====
section
/-! DEFINITION. Register load, arithmetic, logic and random instructions (42_data_and_alu.md). -/

namespace Sys2Proof.Machine

/-- 6XNN: `V[X] <- NN` (R163). -/
def execLdImm (x : Reg) (nn : Byte) (s : State) : Result := .next (s.setReg x nn)

/-- 7XNN: `V[X] <- trunc_8(V[X] + NN)`, no flag (R164). -/
def execAddImm (x : Reg) (nn : Byte) (s : State) : Result := .next (s.setReg x (addWrap (s.reg x) nn))

/-- 8XY0: `V[X] <- V[Y]` (R165). -/
def execLdReg (x y : Reg) (s : State) : Result := .next (s.setReg x (s.reg y))

/-- 8XY1: `V[X] <- V[X] OR V[Y]`, VF not written (R166; the spec's decision D11). -/
def execOrReg (x y : Reg) (s : State) : Result := .next (s.setReg x (s.reg x ||| s.reg y))

/-- 8XY2: `V[X] <- V[X] AND V[Y]`, VF not written (R167; the spec's decision D11). -/
def execAndReg (x y : Reg) (s : State) : Result := .next (s.setReg x (s.reg x &&& s.reg y))

/-- 8XY3: `V[X] <- V[X] XOR V[Y]`, VF not written (R168; the spec's decision D11). -/
def execXorReg (x y : Reg) (s : State) : Result := .next (s.setReg x (s.reg x ^^^ s.reg y))

/-- 8XY4: the sum to VX, then the carry to VF (R169). -/
def execAddReg (x y : Reg) (s : State) : Result :=
  .next (writeResultThenFlag s x (addWrap (s.reg x) (s.reg y)) (carryOut (s.reg x) (s.reg y)))

/-- 8XY5: `VX - VY` to VX, then no borrow to VF (R170). -/
def execSub (x y : Reg) (s : State) : Result :=
  .next (writeResultThenFlag s x (subWrap (s.reg x) (s.reg y)) (noBorrow (s.reg x) (s.reg y)))

/-- 8XY6: VX shifted right by one, then the bit shifted out to VF; VY is not used (R171). -/
def execShr (x _y : Reg) (s : State) : Result :=
  .next (writeResultThenFlag s x (s.reg x >>> 1) (bitOutRight (s.reg x)))

/-- 8XY7: `VY - VX` to VX, then no borrow to VF (R172). -/
def execSubn (x y : Reg) (s : State) : Result :=
  .next (writeResultThenFlag s x (subWrap (s.reg y) (s.reg x)) (noBorrow (s.reg y) (s.reg x)))

/-- 8XYE: VX shifted left by one, then the bit shifted out to VF; VY is not used (R173). -/
def execShl (x _y : Reg) (s : State) : Result :=
  .next (writeResultThenFlag s x (s.reg x <<< 1) (bitOutLeft (s.reg x)))

/-- CXNN: `V[X] <- RandomByte() AND NN`; the byte is a free value (R183; log entry 3). -/
def execRnd (x : Reg) (nn : Byte) (s : State) : Result := .next ((drawByte s).2.setReg x ((drawByte s).1 &&& nn))

end Sys2Proof.Machine
end

