-- ==== Sys2Proof/Machine/Display.lean ====
section
/-! DEFINITION. Display instructions (44_display.md). -/

namespace Sys2Proof.Machine

/-- 00E0: every pixel off, VF not written (R210). -/
def execCls (s : State) : Result := .next { s with fb := clearFrame }

/-- DXYN once its rows are read: the framebuffer, then the collision to VF (R211). -/
def drawAt (s : State) (x0 y0 : Nat) (rows : List Byte) : State :=
  setFlag { s with fb := (drawSprite s.fb x0 y0 rows).1 } (drawSprite s.fb x0 y0 rows).2

/-- DXYN: the operands and the N rows at I are read first, or `MemoryOutOfBounds`; then the sprite is drawn (R211). -/
def execDrw (x y : Reg) (n : Nat) (s : State) : Result :=
  complete s ((readBytes s (indexAddr s) n).map fun rows => drawAt s (spriteColumn s x) (spriteRow s y) rows)

end Sys2Proof.Machine
end

