-- ==== Sys2Proof/Machine/Index.lean ====
section
/-! DEFINITION. Index register and memory instructions (43_index_and_memory.md). -/

namespace Sys2Proof.Machine

/-- ANNN: `I <- NNN` (R190). -/
def execLdI (nnn : Word) (s : State) : Result := .next { s with i := nnn }

/-- FX1E: `I <- trunc_16(I + VX)`, VF not written (R191; the spec's decision D18). -/
def execAddI (x : Reg) (s : State) : Result := .next { s with i := indexPlus s x }

/-- FX29: `I <- FONT_BASE + 5 * VX[3:0]` (R192). -/
def execLdF (x : Reg) (s : State) : Result := .next { s with i := glyphAddr (s.reg x) }

/-- FX33: the decimal digits of VX at I, I + 1, I + 2, or `MemoryOutOfBounds`; I unchanged (R193). -/
def execLdB (x : Reg) (s : State) : Result := complete s (writeBytes s (indexAddr s) (bcdDigits (s.reg x)))

/-- FX55: V0 to VX at I to I + X, or `MemoryOutOfBounds`; I unchanged (R194; the spec's decision D17). -/
def execStoreRegs (x : Reg) (s : State) : Result := complete s (writeBytes s (indexAddr s) (regsUpTo s x))

/-- FX65: V0 to VX from I to I + X, or `MemoryOutOfBounds`; I unchanged (R195; the spec's decision D17). -/
def execLoadRegs (x : Reg) (s : State) : Result :=
  complete s ((readBytes s (indexAddr s) (x.val + 1)).map fun bs => loadRegList s bs)

end Sys2Proof.Machine
end

