-- ==== Sys2Proof/Machine/Input.lean ====
section
/-! DEFINITION. Key pad and timer instructions (45_keypad_and_timers.md). -/

namespace Sys2Proof.Machine

/-- EX9E: skip if the key numbered VX is pressed (R230). -/
def execSkp (x : Reg) (s : State) : Result := .next (skipIf (s.keyDown (keyOf s x)) s)

/-- EXA1: skip if the key numbered VX is not pressed (R231). -/
def execSknp (x : Reg) (s : State) : Result := .next (skipIf (!s.keyDown (keyOf s x)) s)

/-- FX0A: `MODE <- WaitingForKey(X)`, whatever keys are held (R232; the spec's decision D21). -/
def execLdVxK (x : Reg) (s : State) : Result := .next { s with mode := .waitingForKey x }

/-- FX07: `V[X] <- DT` (R233). -/
def execLdVxDt (x : Reg) (s : State) : Result := .next (s.setReg x s.dt)

/-- FX15: `DT <- V[X]` (R234). -/
def execLdDtVx (x : Reg) (s : State) : Result := .next { s with dt := s.reg x }

/-- FX18: `ST <- V[X]` (R235). -/
def execLdStVx (x : Reg) (s : State) : Result := .next { s with st := s.reg x }

end Sys2Proof.Machine
end

