-- ==== Sys2Proof/Machine/Cycle.lean ====
section
/-! DEFINITION. The step cycle: the transaction `Step()` (40_step_cycle.md), and where a word is stored to be fetched
next. -/

namespace Sys2Proof.Machine

/-- The fetch window, `0x200 <= PC <= 0xFFE` (R122; the spec's decision D1). -/
def inFetchWindow (pc : Word) : Bool := decide (Config.progBase ≤ pc.toNat) && decide (pc.toNat ≤ 0xFFE)

/-- The word at PC, high byte first: `MEM[PC] ++ MEM[PC + 1]` (R62, R123). -/
def fetchWord (s : State) : Word := wordOfBytes (s.mem.read s.pc.toNat) (s.mem.read (s.pc.toNat + 1))

/-- `PC <- pc0 + 2`, before the instruction executes (R23, R123). -/
def advance (s : State) : State := s.jump (s.pc + 2)

/-- Decode and execute the word fetched at `pc0 = s.pc`, or `UnknownOpcode`; PC is advanced before either
(R123 to R125). -/
def runFetched (s : State) : Result :=
  match decode (fetchWord s) with
  | .ok i => exec i (advance s)
  | .error _ => .next (raise (.unknownOpcode s.pc (fetchWord s)) (advance s))

/-- `Step()` (R120): the mode gate (R121), the fetch check (R122), fetch, decode and execute (R123 to R125), in the
order of R126. -/
def engineStep (s : State) : Result :=
  match s.mode with
  | .waitingForKey _ => .next s
  | .faulted _ => .next s
  | .running => if inFetchWindow s.pc then runFetched s else .next (raise (.fetchError s.pc) s)

/-- Store a word, high byte first, where the next fetch reads it (R91). -/
def placeWord (s : State) (op : Word) : State :=
  { s with mem := s.mem.writeList s.pc.toNat [highByte op, lowByte op] }

/-- The same state, ready to fetch at once: Running, no host transaction before the next step, and PC in the fetch
window (at PROG_BASE if it was not). -/
def readyToFetch (s : State) : State :=
  { s with mode := .running, schedule := [], pc := if inFetchWindow s.pc then s.pc else BitVec.ofNat 16 Config.progBase }

end Sys2Proof.Machine
end

