-- ==== Sys2Proof/Machine/HostEvents.lean ====
section
/-! DEFINITION. The host's transactions: Reset, TickTimers, KeyPress, KeyRelease (60_exceptions.md,
70_reset_and_hazards.md). -/

namespace Sys2Proof.Machine

/-- A timer's tick: down by 1 while non-zero, floor at zero (R33, R272). -/
def tick (t : Byte) : Byte := if 0 < t.toNat then BitVec.ofNat 8 (t.toNat - 1) else t

/-- `TickTimers()`; no effect in `Faulted` mode (R272, R274). -/
def tickTimers (s : State) : State :=
  match s.mode with
  | .running => { s with dt := tick s.dt, st := tick s.st }
  | .waitingForKey _ => { s with dt := tick s.dt, st := tick s.st }
  | .faulted _ => s

/-- `KeyPress(k)`: sets the pad bit, and ends a wait by writing the key number to the wait target; no effect in
`Faulted` mode (R232, R261). -/
def keyPress (k : Key) (s : State) : State :=
  match s.mode with
  | .running => { s with keys := s.keys.set k true }
  | .waitingForKey x => { s.setReg x (BitVec.ofNat 8 k.val) with keys := s.keys.set k true, mode := .running }
  | .faulted _ => s

/-- `KeyRelease(k)`: clears the pad bit and never ends a wait; no effect in `Faulted` mode (R262). -/
def keyRelease (k : Key) (s : State) : State :=
  match s.mode with
  | .running => { s with keys := s.keys.set k false }
  | .waitingForKey _ => { s with keys := s.keys.set k false }
  | .faulted _ => s

/-- The state of R302 with the program image at 0x200. The model's own fields go on from `s`: the draws so that later
draws are fresh, the schedule because it is the host's. -/
def loadedState (program : List Byte) (s : State) : State :=
  { State.reset with
    mem := State.reset.mem.writeList Config.progBase program, draws := s.draws, schedule := s.schedule }

/-- `Reset(program)` from any state: the loaded state, or `LoadError` for a program longer than 3584 bytes
(R252, R300, R301). -/
def resetWith (program : List Byte) (s : State) : State :=
  if Config.progMax < program.length then raise (.loadError program.length) s else loadedState program s

/-- One transaction of the host (R19, R260, R278). -/
def perform (t : Transaction) (s : State) : Result :=
  match t with
  | .reset program => .next (resetWith program s)
  | .step => engineStep s
  | .tickTimers => .next (tickTimers s)
  | .keyPress k => .next (keyPress k s)
  | .keyRelease k => .next (keyRelease k s)

/-- The state with the transaction that comes next taken from the schedule, and that transaction: the head of the
schedule, or `Step()` when it is empty (log entry 4). -/
def nextTransaction (s : State) : Transaction × State :=
  match s.schedule with
  | [] => (.step, s)
  | t :: rest => (t, { s with schedule := rest })

end Sys2Proof.Machine
end

