-- ==== Sys2Proof/Machine/Step.lean ====
section
/-! DEFINITION. The step of the model: one transaction, atomic (00_scope.md R19; R67, R260). -/

namespace Sys2Proof.Machine

/-- Perform the host's next transaction, which is `Step()` when the schedule is empty (log entry 4). -/
def step (s : State) : Host.Outcome State Fault Refusal := perform (nextTransaction s).1 (nextTransaction s).2

/-- `s` with an instruction word stored where the next step fetches it. MODE, PC and the schedule change only as far as
that fetch needs (log entry 5). -/
def State.withFetchWord (s : State) (nbits w : Nat) : State :=
  placeWord (readyToFetch s) (BitVec.ofNat 16 (w % 2 ^ nbits))

end Sys2Proof.Machine
end

