-- ==== Sys2Proof/Safety.lean ====
section
/-! DEFINITION. What counts as a safe run, the invariant (the ranges of 10_state.md R47 and the canonical form of
memory), and the terms in which claims say what an instruction changes. -/

namespace Sys2Proof.Machine

/-! ## Safe and finished runs -/

/-- A state is safe when no fatal error has ended the session (60_exceptions.md R250, R267). -/
def State.safe (s : State) : Bool := !s.mode.isFaulted

/-- The program has finished in the sense of 70_reset_and_hazards.md R324 (the spec's decision D31): Running, PC in the
fetch window, and the word at PC is a jump to its own address. It does not say that the host stops stepping. -/
def State.parked (s : State) : Bool :=
  decide (s.mode = .running) && inFetchWindow s.pc && decide (fetchWord s = 0x1000 ||| s.pc)

/-- The ranges of R47, which say nothing of a faulted state (R268): PC is at most 0x10FE, the stack has at most 16
entries, each between 0x202 and 0x1000; the other ranges of R47 hold by the types. The last clause, that memory is in
canonical form, is the model's own (log entry 6). -/
def State.Inv (s : State) : Prop :=
  s.mode.isFaulted = false →
    s.pc.toNat ≤ 0x10FE ∧ s.stack.length ≤ 16 ∧ (∀ w ∈ s.stack, 0x202 ≤ w.toNat ∧ w.toNat ≤ 0x1000) ∧
      s.mem.wf = true

/-! ## Frames -/

/-- A piece of the engine's state that a claim can say is unchanged: one V register, one byte of memory, one pixel, one
key, or a register or store taken whole. -/
inductive Part where
  | reg (r : Reg)
  | byte (a : Nat)
  | pixel (py : Fin 32) (px : Fin 64)
  | key (k : Key)
  | index
  | pc
  | stack
  | delay
  | sound
  | mode
  deriving DecidableEq, Repr

/-- The piece is the same in both states. -/
def Part.same : Part → State → State → Prop
  | .reg r, s, t => t.reg r = s.reg r
  | .byte a, s, t => t.mem.read a = s.mem.read a
  | .pixel py px, s, t => Machine.pixel t.fb py px = Machine.pixel s.fb py px
  | .key k, s, t => t.keyDown k = s.keyDown k
  | .index, s, t => t.i = s.i
  | .pc, s, t => t.pc = s.pc
  | .stack, s, t => t.stack = s.stack
  | .delay, s, t => t.dt = s.dt
  | .sound, s, t => t.st = s.st
  | .mode, s, t => t.mode = s.mode

/-- From `s` to `t` nothing changes but the pieces that `may` names: every other register, byte of memory, pixel, key
and special register is the same. -/
def OnlyChanges (may : Part → Prop) (s t : State) : Prop := ∀ p, ¬ may p → p.same s t

/-- `i` runs on `s` to its end: a next state that is not a fatal error. -/
def Completes (i : Instr) (s t : State) : Prop := exec i s = .next t ∧ t.mode.isFaulted = false

/-- `i` raises a fatal error on `s`: a next state with MODE `Faulted` and that record. -/
def Raises (i : Instr) (s : State) (f : Fault) : Prop := ∃ t, exec i s = .next t ∧ t.mode = .faulted f

/-! ## The terms of single rules -/

/-- The pixel in row `py` and column `px` is lit by the sprite that DXYN with these operands draws on `s`
(44_display.md R211): bit `7 - c` of the byte of row `r` is 1 and the pixel is the one that `r` and `c` land on. -/
def SpriteLit (s : State) (x y : Reg) (n : Nat) (py : Fin 32) (px : Fin 64) : Prop :=
  ∃ r c : Nat, r < n ∧ c < 8 ∧ (s.mem.read (s.i.toNat + r)).getLsbD (7 - c) = true ∧
    px.val = ((s.reg x).toNat % 64 + c) % 64 ∧ py.val = ((s.reg y).toNat % 32 + r) % 32

/-- The instructions that write VF as a flag (R26). -/
def writesFlag : Instr → Bool
  | .addReg _ _ | .sub _ _ | .shr _ _ | .subn _ _ | .shl _ _ | .drw _ _ _ => true
  | .cls | .ret | .jp _ | .call _ | .seImm _ _ | .sneImm _ _ | .seReg _ _ | .ldImm _ _ | .addImm _ _ => false
  | .ldReg _ _ | .orReg _ _ | .andReg _ _ | .xorReg _ _ | .sneReg _ _ | .ldI _ | .jpV0 _ | .rnd _ _ => false
  | .skp _ | .sknp _ | .ldVxDt _ | .ldVxK _ | .ldDtVx _ | .ldStVx _ | .addI _ | .ldF _ | .ldB _ => false
  | .storeRegs _ | .loadRegs _ => false

/-- The V registers an instruction's step writes as destinations, the flag apart (R22, the column Writes). FX0A writes
its register only at the key press. -/
def destinations : Instr → List Reg
  | .ldImm x _ | .addImm x _ | .ldReg x _ | .orReg x _ | .andReg x _ | .xorReg x _ => [x]
  | .addReg x _ | .sub x _ | .shr x _ | .subn x _ | .shl x _ | .rnd x _ | .ldVxDt x => [x]
  | .loadRegs x => (List.finRange 16).filter fun r => decide (r ≤ x)
  | .cls | .ret | .jp _ | .call _ | .seImm _ _ | .sneImm _ _ | .seReg _ _ | .sneReg _ _ => []
  | .ldI _ | .jpV0 _ | .drw _ _ _ | .skp _ | .sknp _ | .ldVxK _ | .ldDtVx _ | .ldStVx _ => []
  | .addI _ | .ldF _ | .ldB _ | .storeRegs _ => []

end Sys2Proof.Machine
end

