-- ==== Sys2Proof/Certificates/Slice0/Obligations.lean ====
section
/-! DEFINITION. The statements about the model, each the formalisation of rules of spec/. PC already holds pc0 + 2 in
the state an instruction executes on (R16, R123), so "PC unchanged" there means that the step ends with pc0 + 2. -/

open Sys2Proof Sys2Proof.Machine

/-! ## Encoding -/

/-- R92, R110: assembling a well-formed instruction and decoding the word gives the instruction back. -/
def Obligations.DecodeInvertsEncode : Prop :=
  ∀ i : Instr, i.wellFormed = true → decode (encode i) = .ok i

/-- R92, R97, R110: what a word decodes to is well-formed and assembles to that same word. -/
def Obligations.EncodeInvertsDecode : Prop :=
  ∀ (op : Word) (i : Instr), decode op = .ok i → i.wellFormed = true ∧ encode i = op

/-- R100, R102: what a word decodes to is the instruction of a row of the opcode map that the word matches. -/
def Obligations.DecodedWordMatchesItsRow : Prop :=
  ∀ (op : Word) (i : Instr), decode op = .ok i → i.row ∈ opcodeTable ∧ op &&& i.row.mask = i.row.pattern

/-- R100, R104: a word is unknown exactly when it matches no row of the opcode map. -/
def Obligations.UnknownWordsMatchNoRow : Prop :=
  ∀ op : Word, decode op = .error (.unknownOpcode op) ↔ ∀ r ∈ opcodeTable, op &&& r.mask ≠ r.pattern

/-- R100: the rows of the opcode map are pairwise disjoint. -/
def Obligations.OpcodeRowsAreDisjoint : Prop :=
  ∀ op : Word, ∀ r ∈ opcodeTable, ∀ q ∈ opcodeTable,
    op &&& r.mask = r.pattern → op &&& q.mask = q.pattern → r = q

/-- 95_test_vectors.md 2.1: sample words decode as the spec lists them. -/
def Obligations.SampleWordsDecode : Prop :=
  decode 0x10E0 = .ok (.jp 0x0E0) ∧ decode 0x3A42 = .ok (.seImm 10 0x42) ∧ decode 0x8AB7 = .ok (.subn 10 11) ∧
    decode 0xB123 = .ok (.jpV0 0x123) ∧ decode 0xD015 = .ok (.drw 0 1 5) ∧ decode 0xE1A1 = .ok (.sknp 1) ∧
    decode 0xF165 = .ok (.loadRegs 1) ∧ decode 0x01E0 = .error (.unknownOpcode 0x01E0) ∧
    decode 0x5121 = .error (.unknownOpcode 0x5121) ∧ decode 0x8AB8 = .error (.unknownOpcode 0x8AB8)

/-! ## The step -/

/-- R62, R123, R125: when the host's next transaction is `Step()`, MODE is Running and PC is in the fetch window, a
step is `exec` of the instruction decoded from the big-endian word at PC, on the state with PC advanced by 2.
DESIGN CHOICE (log entry 4): the transaction comes from `schedule`. -/
def Obligations.StepRunsTheDecodedInstruction : Prop :=
  ∀ (s : State) (i : Instr), s.mode = .running → 0x200 ≤ s.pc.toNat → s.pc.toNat ≤ 0xFFE →
    decode (wordOfBytes (s.mem.read s.pc.toNat) (s.mem.read (s.pc.toNat + 1))) = .ok i →
    (s.schedule = [] → step s = exec i { s with pc := s.pc + 2 }) ∧
    (∀ rest, s.schedule = .step :: rest → step s = exec i { s with pc := s.pc + 2, schedule := rest })

/-- Log entry 4 (DESIGN CHOICE), after R19 and R260: a step performs the first transaction of the schedule on the state
with that transaction taken out, and `Step()` when the schedule is empty. -/
def Obligations.StepPerformsTheNextTransaction : Prop :=
  (∀ (s : State) (tr : Transaction) (rest : List Transaction), s.schedule = tr :: rest →
    step s = perform tr { s with schedule := rest }) ∧
  (∀ s : State, s.schedule = [] → step s = perform .step s)

/-- R121 and the spec's decision D4: `Step()` changes nothing while the engine waits for a key or is faulted. -/
def Obligations.StepOutsideRunningChangesNothing : Prop :=
  (∀ (s : State) (x : Reg), s.mode = .waitingForKey x → perform .step s = .next s) ∧
  (∀ (s : State) (f : Fault), s.mode = .faulted f → perform .step s = .next s)

/-- R122, R253 and the spec's decisions D1, D4: a fetch outside 0x200 to 0xFFE raises `FetchError` with PC. -/
def Obligations.FetchOutsideTheWindowRaisesFetchError : Prop :=
  ∀ s : State, s.mode = .running → (s.pc.toNat < 0x200 ∨ 0xFFE < s.pc.toNat) →
    ∃ t, perform .step s = .next t ∧ t.mode = .faulted (.fetchError s.pc)

/-- R124, R256 and the spec's decision D4: a fetched word that is no instruction raises `UnknownOpcode` with the fetch
address and the word. -/
def Obligations.UnknownWordRaisesUnknownOpcode : Prop :=
  ∀ (s : State) (op : Word), s.mode = .running → 0x200 ≤ s.pc.toNat → s.pc.toNat ≤ 0xFFE →
    op = wordOfBytes (s.mem.read s.pc.toNat) (s.mem.read (s.pc.toNat + 1)) →
    decode op = .error (.unknownOpcode op) →
    ∃ t, perform .step s = .next t ∧ t.mode = .faulted (.unknownOpcode s.pc op)

/-- R126, R250, R251, R265 and the spec's decision D5: the fatal errors of a step from a state without one. The first
that applies is raised: `FetchError` outside the window, then `UnknownOpcode`, then the one error the instruction can
raise, always with the fetch address. -/
def Obligations.StepRaisesOnlyTheErrorOfItsPhase : Prop :=
  ∀ (s t : State) (f : Fault), s.mode = .running → perform .step s = .next t → t.mode = .faulted f →
    (f = .fetchError s.pc ∧ (s.pc.toNat < 0x200 ∨ 0xFFE < s.pc.toNat)) ∨
    (0x200 ≤ s.pc.toNat ∧ s.pc.toNat ≤ 0xFFE ∧
      let op := wordOfBytes (s.mem.read s.pc.toNat) (s.mem.read (s.pc.toNat + 1))
      ((f = .unknownOpcode s.pc op ∧ decode op = .error (.unknownOpcode op)) ∨
       (f = .stackOverflow s.pc ∧ 16 ≤ s.stack.length ∧ ∃ nnn, decode op = .ok (.call nnn)) ∨
       (f = .stackUnderflow s.pc ∧ s.stack = [] ∧ decode op = .ok .ret) ∨
       (f = .memoryOutOfBounds s.pc (max (indexAddr s) 0x1000) ∧
         ∃ i, decode op = .ok i ∧ ((∃ x, i = .ldB x ∧ 0xFFF < indexAddr s + 2) ∨
           (∃ x : Reg, (i = .storeRegs x ∨ i = .loadRegs x) ∧ 0xFFF < indexAddr s + x.val) ∨
           (∃ x y n, i = .drw x y (n + 1) ∧ 0xFFF < indexAddr s + n)))))

/-- R268, R269 and the spec's decision D4: nothing the host does but `Reset` changes a faulted engine. -/
def Obligations.FaultedIsLeftOnlyByReset : Prop :=
  ∀ (s : State) (f : Fault) (tr : Transaction), s.mode = .faulted f → (∀ program, tr ≠ .reset program) →
    perform tr s = .next s

/-- R324 and the spec's decision D31: a parked state is a fixed point of `Step()`. -/
def Obligations.ParkedStateIsFixedByStep : Prop :=
  ∀ s : State, s.parked = true → perform .step s = .next s

/-! ## Invariants and rules of the whole machine -/

/-- The ranges of PC and of the stack that R47 gives unless MODE is Faulted, kept by every step, whichever transaction
it performs. Two clauses are the model's own and no rule of the spec: that memory keeps its canonical form is the model's
way of holding the 4096 bytes (log entry 6, DESIGN CHOICE), and that a step performs the first transaction of `schedule`
is log entry 4 (DESIGN CHOICE). -/
def Obligations.StepKeepsTheInvariant : Prop :=
  ∀ s t : State, s.Inv → step s = .next t → t.Inv

/-- The ranges of PC and of the stack that R47 gives hold after reset. The rest is the model's own or a decision of the
spec: the canonical form of memory is log entry 6 (DESIGN CHOICE), that `State.reset` is `Reset` with the empty program is
log entry 5 (DEDUCED), and that MODE is Running after it is the spec's decision D9 (log entry 9). -/
def Obligations.ResetMeetsTheInvariant : Prop :=
  State.reset.Inv ∧ State.reset.mode.isFaulted = false

/-- R40: the key pad is read-only to the engine: no instruction that completes changes a key. -/
def Obligations.NoInstructionWritesTheKeyPad : Prop :=
  ∀ (i : Instr) (s t : State), Completes i s t → ∀ k, t.keyDown k = s.keyDown k

/-- R39: only the draw and clear instructions change the framebuffer. -/
def Obligations.OnlyClearAndDrawWriteTheFramebuffer : Prop :=
  ∀ (i : Instr) (s t : State), Completes i s t → i ≠ .cls → (∀ x y n, i ≠ .drw x y n) → t.fb = s.fb

/-- R66: only FX33 and FX55 write memory. -/
def Obligations.OnlyStoresWriteMemory : Prop :=
  ∀ (i : Instr) (s t : State), Completes i s t → (∀ x, i ≠ .ldB x) → (∀ x, i ≠ .storeRegs x) → t.mem = s.mem

/-- R22, R26: an instruction writes no V register but its destinations, and VF besides only if it is one of the six
that set the flag. -/
def Obligations.OnlyDestinationsAndTheFlagAreWritten : Prop :=
  ∀ (i : Instr) (s t : State) (r : Reg), Completes i s t → r ∉ destinations i → (r = 15 → writesFlag i = false) →
    t.reg r = s.reg r

/-- R29: an instruction takes I from at most 0xFFF to more only if it is FX1E. -/
def Obligations.IndexLeavesMemoryOnlyThroughAdd : Prop :=
  ∀ (i : Instr) (s t : State), i.wellFormed = true → Completes i s t → s.i.toNat ≤ 0xFFF → 0xFFF < t.i.toNat →
    ∃ x, i = .addI x

/-- R30, R35, R127, R273: only FX15 writes DT, only FX18 writes ST, only 2NNN and 00EE change the stack, and only FX0A
changes MODE, among instructions that complete. -/
def Obligations.TimersStackAndModeHaveTheirOwnWriters : Prop :=
  ∀ (i : Instr) (s t : State), Completes i s t →
    ((∀ x, i ≠ .ldDtVx x) → t.dt = s.dt) ∧ ((∀ x, i ≠ .ldStVx x) → t.st = s.st) ∧
    ((∀ nnn, i ≠ .call nnn) → i ≠ .ret → t.stack = s.stack) ∧ ((∀ x, i ≠ .ldVxK x) → t.mode = s.mode)

/-! ## Control transfer (41_control_flow.md) -/

/-- R140: 00EE takes the top of the stack into PC. -/
def Obligations.ReturnPopsIntoPc : Prop :=
  ∀ (s : State) (below : List Word) (w : Word), s.stack = below ++ [w] →
    ∃ t, exec .ret s = .next t ∧ t.pc = w ∧ t.stack = below ∧ OnlyChanges (fun p => p = .pc ∨ p = .stack) s t

/-- R141: 1NNN sets PC to NNN and changes nothing else. -/
def Obligations.JumpSetsPc : Prop :=
  ∀ (nnn : Word) (s : State), ∃ t, exec (.jp nnn) s = .next t ∧ t.pc = nnn ∧ OnlyChanges (fun p => p = .pc) s t

/-- R142, R31: 2NNN with fewer than 16 entries pushes the advanced PC and jumps. -/
def Obligations.CallPushesTheReturnAddress : Prop :=
  ∀ (nnn : Word) (s : State), s.stack.length < 16 →
    ∃ t, exec (.call nnn) s = .next t ∧ t.pc = nnn ∧ t.stack = s.stack ++ [s.pc] ∧
      OnlyChanges (fun p => p = .pc ∨ p = .stack) s t

/-- R31, R32, R140, R142, R251 and the spec's decision D4: 2NNN with 16 entries raises `StackOverflow` and 00EE on an
empty stack raises `StackUnderflow`, each with the fetch address. -/
def Obligations.FullAndEmptyStackRaise : Prop :=
  (∀ (nnn : Word) (s : State), 16 ≤ s.stack.length → Raises (.call nnn) s (.stackOverflow (s.pc - 2))) ∧
  (∀ s : State, s.stack = [] → Raises .ret s (.stackUnderflow (s.pc - 2)))

/-- R143, R144: 3XNN and 4XNN compare VX with NN and skip two more bytes if they are equal, or different. -/
def Obligations.ImmediateSkipsCompareWithNN : Prop :=
  ∀ (x : Reg) (nn : Byte) (s : State),
    (∃ t, exec (.seImm x nn) s = .next t ∧ t.pc = (if s.reg x = nn then s.pc + 2 else s.pc) ∧
      OnlyChanges (fun p => p = .pc) s t) ∧
    (∃ t, exec (.sneImm x nn) s = .next t ∧ t.pc = (if s.reg x = nn then s.pc else s.pc + 2) ∧
      OnlyChanges (fun p => p = .pc) s t)

/-- R145, R146: 5XY0 and 9XY0 compare VX with VY and skip two more bytes if they are equal, or different; with X = Y
5XY0 always skips and 9XY0 never does. -/
def Obligations.RegisterSkipsCompareWithVY : Prop :=
  ∀ (x y : Reg) (s : State),
    (∃ t, exec (.seReg x y) s = .next t ∧ t.pc = (if s.reg x = s.reg y then s.pc + 2 else s.pc) ∧
      (x = y → t.pc = s.pc + 2) ∧ OnlyChanges (fun p => p = .pc) s t) ∧
    (∃ t, exec (.sneReg x y) s = .next t ∧ t.pc = (if s.reg x = s.reg y then s.pc else s.pc + 2) ∧
      (x = y → t.pc = s.pc) ∧ OnlyChanges (fun p => p = .pc) s t)

/-- R147 and the spec's decision D22: BNNN sets PC to NNN + V0, not reduced to 12 bits. -/
def Obligations.OffsetJumpAddsV0 : Prop :=
  ∀ (nnn : Word) (s : State), nnn.toNat ≤ 0xFFF →
    ∃ t, exec (.jpV0 nnn) s = .next t ∧ t.pc.toNat = nnn.toNat + (s.reg 0).toNat ∧
      OnlyChanges (fun p => p = .pc) s t

/-! ## Data and arithmetic (42_data_and_alu.md) -/

/-- R163: 6XNN loads NN into VX. -/
def Obligations.LoadImmediateWritesNN : Prop :=
  ∀ (x : Reg) (nn : Byte) (s : State),
    ∃ t, exec (.ldImm x nn) s = .next t ∧ t.reg x = nn ∧ OnlyChanges (fun p => p = .reg x) s t

/-- R164: 7XNN adds NN to VX modulo 256 and writes no flag. -/
def Obligations.AddImmediateWrapsWithoutFlag : Prop :=
  ∀ (x : Reg) (nn : Byte) (s : State),
    ∃ t, exec (.addImm x nn) s = .next t ∧ (t.reg x).toNat = ((s.reg x).toNat + nn.toNat) % 256 ∧
      OnlyChanges (fun p => p = .reg x) s t

/-- R165 to R168 and the spec's decision D11: 8XY0 copies VY to VX; 8XY1, 8XY2 and 8XY3 combine VX and VY bit by bit;
none writes a flag. -/
def Obligations.CopyAndLogicWriteOnlyVX : Prop :=
  ∀ (x y : Reg) (s : State),
    (∃ t, exec (.ldReg x y) s = .next t ∧ t.reg x = s.reg y ∧ OnlyChanges (fun p => p = .reg x) s t) ∧
    (∃ t, exec (.orReg x y) s = .next t ∧ OnlyChanges (fun p => p = .reg x) s t ∧
      ∀ k, (t.reg x).getLsbD k = ((s.reg x).getLsbD k || (s.reg y).getLsbD k)) ∧
    (∃ t, exec (.andReg x y) s = .next t ∧ OnlyChanges (fun p => p = .reg x) s t ∧
      ∀ k, (t.reg x).getLsbD k = ((s.reg x).getLsbD k && (s.reg y).getLsbD k)) ∧
    (∃ t, exec (.xorReg x y) s = .next t ∧ OnlyChanges (fun p => p = .reg x) s t ∧
      ∀ k, (t.reg x).getLsbD k = ((s.reg x).getLsbD k ^^ (s.reg y).getLsbD k))

/-- R169, R162 and the spec's decision D13: 8XY4 writes the sum modulo 256 to VX and then the carry to VF, which is
what VF holds at the end also when X = F. -/
def Obligations.AddWritesSumThenCarry : Prop :=
  ∀ (x y : Reg) (s : State), ∃ t, exec (.addReg x y) s = .next t ∧
    (x ≠ 15 → (t.reg x).toNat = ((s.reg x).toNat + (s.reg y).toNat) % 256) ∧
    (t.reg 15).toNat = (if 255 < (s.reg x).toNat + (s.reg y).toNat then 1 else 0) ∧
    OnlyChanges (fun p => p = .reg x ∨ p = .reg 15) s t

/-- R170, R162 and the spec's decisions D12, D13: 8XY5 writes VX - VY modulo 256 to VX and then 1 to VF if there is no
borrow, else 0. -/
def Obligations.SubtractWritesDifferenceThenNoBorrow : Prop :=
  ∀ (x y : Reg) (s : State), ∃ t, exec (.sub x y) s = .next t ∧
    (x ≠ 15 → (t.reg x).toNat = ((s.reg x).toNat + 256 - (s.reg y).toNat) % 256) ∧
    (t.reg 15).toNat = (if (s.reg y).toNat ≤ (s.reg x).toNat then 1 else 0) ∧
    OnlyChanges (fun p => p = .reg x ∨ p = .reg 15) s t

/-- R172, R162 and the spec's decisions D12, D13: 8XY7 writes VY - VX modulo 256 to VX and then 1 to VF if there is no
borrow, else 0. -/
def Obligations.ReverseSubtractWritesDifferenceThenNoBorrow : Prop :=
  ∀ (x y : Reg) (s : State), ∃ t, exec (.subn x y) s = .next t ∧
    (x ≠ 15 → (t.reg x).toNat = ((s.reg y).toNat + 256 - (s.reg x).toNat) % 256) ∧
    (t.reg 15).toNat = (if (s.reg x).toNat ≤ (s.reg y).toNat then 1 else 0) ∧
    OnlyChanges (fun p => p = .reg x ∨ p = .reg 15) s t

/-- R171, R173, R162 and the spec's decision D13: 8XY6 halves VX and puts the old bit 0 in VF; 8XYE doubles VX modulo
256 and puts the old bit 7 in VF; the Y field makes no difference. -/
def Obligations.ShiftsWriteResultThenBitOut : Prop :=
  ∀ (x y : Reg) (s : State),
    (∃ t, exec (.shr x y) s = .next t ∧ (∀ z, exec (.shr x z) s = .next t) ∧
      (x ≠ 15 → (t.reg x).toNat = (s.reg x).toNat / 2) ∧ (t.reg 15).toNat = (s.reg x).toNat % 2 ∧
      OnlyChanges (fun p => p = .reg x ∨ p = .reg 15) s t) ∧
    (∃ t, exec (.shl x y) s = .next t ∧ (∀ z, exec (.shl x z) s = .next t) ∧
      (x ≠ 15 → (t.reg x).toNat = 2 * (s.reg x).toNat % 256) ∧ (t.reg 15).toNat = (s.reg x).toNat / 128 ∧
      OnlyChanges (fun p => p = .reg x ∨ p = .reg 15) s t)

/-- R183 and the spec's decision D24: CXNN writes a free byte under the mask NN, and the next draw is another one (log
entry 3, DESIGN CHOICE: the free byte is indexed by a counter). The statement holds whatever the free byte is. -/
def Obligations.RandomWritesAFreeByteUnderTheMask : Prop :=
  ∀ (x : Reg) (nn : Byte) (s : State), ∃ t, exec (.rnd x nn) s = .next t ∧
    t.reg x = Config.randomByte s.draws &&& nn ∧ t.draws = s.draws + 1 ∧
    (∀ k, nn.getLsbD k = false → (t.reg x).getLsbD k = false) ∧ OnlyChanges (fun p => p = .reg x) s t

/-! ## Index register and memory (43_index_and_memory.md) -/

/-- R190: ANNN loads NNN into I. -/
def Obligations.LoadIndexWritesNNN : Prop :=
  ∀ (nnn : Word) (s : State), ∃ t, exec (.ldI nnn) s = .next t ∧ t.i = nnn ∧ OnlyChanges (fun p => p = .index) s t

/-- R191 and the spec's decision D18: FX1E adds VX to I modulo 2^16 and writes no flag. -/
def Obligations.AddToIndexWrapsAtSixteenBits : Prop :=
  ∀ (x : Reg) (s : State), ∃ t, exec (.addI x) s = .next t ∧
    t.i.toNat = (s.i.toNat + (s.reg x).toNat) % 65536 ∧ OnlyChanges (fun p => p = .index) s t

/-- R192 and the spec's decisions D6, D20 (log entry 1): FX29 points I at the glyph of the low nibble of VX. -/
def Obligations.GlyphAddressOfTheLowNibble : Prop :=
  ∀ (x : Reg) (s : State), ∃ t, exec (.ldF x) s = .next t ∧
    t.i.toNat = 0x050 + 5 * ((s.reg x).toNat % 16) ∧ OnlyChanges (fun p => p = .index) s t

/-- R193 and the spec's decision D19: FX33 with I + 2 in memory stores hundreds, tens and ones of VX at I, I + 1 and
I + 2 and changes nothing else. -/
def Obligations.DecimalDigitsAreStoredAtIndex : Prop :=
  ∀ (x : Reg) (s : State), indexAddr s + 2 ≤ 0xFFF → ∃ t, exec (.ldB x) s = .next t ∧
    (t.mem.read (indexAddr s)).toNat = (s.reg x).toNat / 100 ∧
    (t.mem.read (indexAddr s + 1)).toNat = (s.reg x).toNat / 10 % 10 ∧
    (t.mem.read (indexAddr s + 2)).toNat = (s.reg x).toNat % 10 ∧
    OnlyChanges (fun p => ∃ k, k < 3 ∧ p = .byte (indexAddr s + k)) s t

/-- R194 and the spec's decision D17: FX55 with I + X in memory stores V0 to VX at I to I + X and changes nothing
else. -/
def Obligations.RegistersAreStoredFromIndex : Prop :=
  ∀ (x : Reg) (s : State), indexAddr s + x.val ≤ 0xFFF → ∃ t, exec (.storeRegs x) s = .next t ∧
    (∀ k : Reg, k ≤ x → t.mem.read (indexAddr s + k.val) = s.reg k) ∧
    OnlyChanges (fun p => ∃ k : Reg, k ≤ x ∧ p = .byte (indexAddr s + k.val)) s t

/-- R195 and the spec's decision D17: FX65 with I + X in memory loads V0 to VX from I to I + X and changes nothing
else. -/
def Obligations.RegistersAreLoadedFromIndex : Prop :=
  ∀ (x : Reg) (s : State), indexAddr s + x.val ≤ 0xFFF → ∃ t, exec (.loadRegs x) s = .next t ∧
    (∀ k : Reg, k ≤ x → t.reg k = s.mem.read (indexAddr s + k.val)) ∧
    OnlyChanges (fun p => ∃ k : Reg, k ≤ x ∧ p = .reg k) s t

/-- R60, R61, R211, R251, R257 and the spec's decisions D3, D4: an access past 0xFFF raises `MemoryOutOfBounds` with the
lowest bad address, which is the larger of I and 0x1000. -/
def Obligations.AccessPastMemoryRaisesOutOfBounds : Prop :=
  ∀ (x y : Reg) (n : Nat) (s : State),
    (0xFFF < indexAddr s + 2 → Raises (.ldB x) s (.memoryOutOfBounds (s.pc - 2) (max (indexAddr s) 0x1000))) ∧
    (0xFFF < indexAddr s + x.val →
      Raises (.storeRegs x) s (.memoryOutOfBounds (s.pc - 2) (max (indexAddr s) 0x1000)) ∧
      Raises (.loadRegs x) s (.memoryOutOfBounds (s.pc - 2) (max (indexAddr s) 0x1000))) ∧
    (0xFFF < indexAddr s + n →
      Raises (.drw x y (n + 1)) s (.memoryOutOfBounds (s.pc - 2) (max (indexAddr s) 0x1000)))

/-- R68, S2 of 95_test_vectors.md: what FX55 stored FX65 loads back, from any later state with the same memory and I. -/
def Obligations.LoadReturnsWhatStoreStored : Prop :=
  ∀ (x : Reg) (s t u : State), Completes (.storeRegs x) s t → s.mode.isFaulted = false →
    u.mem = t.mem → u.i = s.i →
    ∃ w, exec (.loadRegs x) u = .next w ∧ ∀ k : Reg, k ≤ x → w.reg k = s.reg k

/-! ## Display (44_display.md) -/

/-- R210: 00E0 turns every pixel off and changes nothing else. -/
def Obligations.ClearTurnsEveryPixelOff : Prop :=
  ∀ s : State, ∃ t, exec .cls s = .next t ∧ (∀ py px, pixel t.fb py px = false) ∧
    OnlyChanges (fun p => ∃ py px, p = .pixel py px) s t

/-- R211, R212, R213 and the spec's decision D16: DXYN with its rows in memory (or with none) flips exactly the pixels
its sprite lights, with wraparound, sets VF to 1 if one of them was on and to 0 otherwise, and changes nothing else. -/
def Obligations.DrawFlipsTheLitPixels : Prop :=
  ∀ (x y : Reg) (n : Nat) (s : State), n < 16 → (n = 0 ∨ indexAddr s + n ≤ 0x1000) →
    ∃ t, exec (.drw x y n) s = .next t ∧
      (∀ py px, SpriteLit s x y n py px → pixel t.fb py px = !pixel s.fb py px) ∧
      (∀ py px, ¬ SpriteLit s x y n py px → pixel t.fb py px = pixel s.fb py px) ∧
      ((∃ py px, SpriteLit s x y n py px ∧ pixel s.fb py px = true) → t.reg 15 = 1) ∧
      ((∀ py px, SpriteLit s x y n py px → pixel s.fb py px = false) → t.reg 15 = 0) ∧
      OnlyChanges (fun p => p = .reg 15 ∨ ∃ py px, p = .pixel py px) s t

/-- R211, after R213 (g): drawing the same sprite at the same place twice restores the framebuffer. The second draw
reports a collision exactly when the sprite lights a pixel that was off before the first one, so where all of its pixels
were off, exactly when it has a 1 bit (log entry 7, DEDUCED: R213 (g) leaves that premise unsaid). X = F and Y = F are left
out, because the first draw overwrites VF and the second is then at another place; a single draw with them is
DrawFlipsTheLitPixels. -/
def Obligations.DrawingTwiceRestoresTheFramebuffer : Prop :=
  ∀ (x y : Reg) (n : Nat) (s : State), n < 16 → x ≠ 15 → y ≠ 15 → (n = 0 ∨ indexAddr s + n ≤ 0x1000) →
    ∃ t u, exec (.drw x y n) s = .next t ∧ exec (.drw x y n) t = .next u ∧ u.fb = s.fb ∧
      (u.reg 15 = 1 ↔ ∃ py px, SpriteLit s x y n py px ∧ pixel s.fb py px = false) ∧
      ((∀ py px, SpriteLit s x y n py px → pixel s.fb py px = false) →
        (u.reg 15 = 1 ↔ ∃ r, r < n ∧ s.mem.read (indexAddr s + r) ≠ 0))

/-! ## Key pad and timer instructions (45_keypad_and_timers.md) -/

/-- R230, R231 and the spec's decision D20: EX9E and EXA1 skip two more bytes if the key named by the low nibble of VX
is pressed, or not pressed. -/
def Obligations.KeySkipsTestTheLowNibble : Prop :=
  ∀ (x : Reg) (s : State),
    (∃ t, exec (.skp x) s = .next t ∧
      t.pc = (if s.keyDown (Fin.ofNat 16 (s.reg x).toNat) = true then s.pc + 2 else s.pc) ∧
      OnlyChanges (fun p => p = .pc) s t) ∧
    (∃ t, exec (.sknp x) s = .next t ∧
      t.pc = (if s.keyDown (Fin.ofNat 16 (s.reg x).toNat) = true then s.pc else s.pc + 2) ∧
      OnlyChanges (fun p => p = .pc) s t)

/-- R232 and the spec's decision D21: FX0A starts the wait for its register, whatever keys are held, and changes nothing
else; the next `KeyPress` writes the key number there and resumes, and until then `Step()` changes nothing. -/
def Obligations.WaitEndsAtTheNextKeyPress : Prop :=
  ∀ (x : Reg) (k : Key) (s : State), ∃ t, exec (.ldVxK x) s = .next t ∧ t.mode = .waitingForKey x ∧
    OnlyChanges (fun p => p = .mode) s t ∧ perform .step t = .next t ∧
    ∃ u, perform (.keyPress k) t = .next u ∧ (u.reg x).toNat = k.val ∧ u.keyDown k = true ∧ u.mode = .running ∧
      OnlyChanges (fun p => p = .mode ∨ p = .reg x ∨ p = .key k) s u

/-- R233: FX07 copies DT to VX and leaves DT. -/
def Obligations.ReadDelayTimer : Prop :=
  ∀ (x : Reg) (s : State), ∃ t, exec (.ldVxDt x) s = .next t ∧ t.reg x = s.dt ∧
    OnlyChanges (fun p => p = .reg x) s t

/-- R234: FX15 sets DT to VX. -/
def Obligations.SetDelayTimer : Prop :=
  ∀ (x : Reg) (s : State), ∃ t, exec (.ldDtVx x) s = .next t ∧ t.dt = s.reg x ∧
    OnlyChanges (fun p => p = .delay) s t

/-- R235, R276: FX18 sets ST to VX, and the tone is on afterwards exactly when VX is not zero. -/
def Obligations.SetSoundTimerAndTone : Prop :=
  ∀ (x : Reg) (s : State), ∃ t, exec (.ldStVx x) s = .next t ∧ t.st = s.reg x ∧
    (t.tone = true ↔ s.reg x ≠ 0) ∧ OnlyChanges (fun p => p = .sound) s t

/-! ## Host transactions (60_exceptions.md, 70_reset_and_hazards.md) -/

/-- R272: `TickTimers()` takes 1 from each timer that is not zero, independently, and changes nothing else; it has no
effect in `Faulted` mode. -/
def Obligations.TickCountsBothTimersDownToZero : Prop :=
  ∀ s : State,
    (s.mode.isFaulted = false → ∃ t, perform .tickTimers s = .next t ∧ t.dt.toNat = s.dt.toNat - 1 ∧
      t.st.toNat = s.st.toNat - 1 ∧ OnlyChanges (fun p => p = .delay ∨ p = .sound) s t) ∧
    (s.mode.isFaulted = true → perform .tickTimers s = .next s)

/-- R261 and the spec's decision D21: `KeyPress(k)` sets the pad bit, ends a wait by writing the key number to the wait
target, changes nothing else, and has no effect in `Faulted` mode. -/
def Obligations.KeyPressSetsTheBitAndEndsAWait : Prop :=
  ∀ (k : Key) (s : State),
    (s.mode = .running → ∃ t, perform (.keyPress k) s = .next t ∧ t.keyDown k = true ∧
      OnlyChanges (fun p => p = .key k) s t) ∧
    (∀ x, s.mode = .waitingForKey x → ∃ t, perform (.keyPress k) s = .next t ∧ t.keyDown k = true ∧
      (t.reg x).toNat = k.val ∧ t.mode = .running ∧
      OnlyChanges (fun p => p = .key k ∨ p = .reg x ∨ p = .mode) s t) ∧
    (s.mode.isFaulted = true → perform (.keyPress k) s = .next s)

/-- R262: `KeyRelease(k)` clears the pad bit, never ends a wait, changes nothing else, and has no effect in `Faulted`
mode. -/
def Obligations.KeyReleaseClearsOnlyTheBit : Prop :=
  ∀ (k : Key) (s : State),
    (s.mode.isFaulted = false → ∃ t, perform (.keyRelease k) s = .next t ∧ t.keyDown k = false ∧
      OnlyChanges (fun p => p = .key k) s t) ∧
    (s.mode.isFaulted = true → perform (.keyRelease k) s = .next s)

/-- R300, R302 and the spec's decisions D6 to D9 (log entries 1 and 6): from any state `Reset` with a program of at most
3584 bytes gives the reset values of R46, with the image at 0x200 and the font and zeros elsewhere. -/
def Obligations.ResetLoadsTheProgram : Prop :=
  ∀ (program : List Byte) (s : State), program.length ≤ 3584 → ∃ t, perform (.reset program) s = .next t ∧
    (∀ r, t.reg r = 0) ∧ t.i = 0 ∧ t.pc = 0x200 ∧ t.stack = [] ∧ t.dt = 0 ∧ t.st = 0 ∧ t.mode = .running ∧
    (∀ py px, pixel t.fb py px = false) ∧ (∀ k, t.keyDown k = false) ∧
    (∀ j, j < program.length → t.mem.read (0x200 + j) = program.getD j 0) ∧
    (∀ j, j < 80 → t.mem.read (0x050 + j) = font.getD j 0) ∧
    (∀ a, a < 0x050 ∨ (0x0A0 ≤ a ∧ a < 0x200) ∨ 0x200 + program.length ≤ a → t.mem.read a = 0)

/-- R252, R301 and the spec's decisions D4, D28: `Reset` with a longer program raises `LoadError` with its length. -/
def Obligations.ResetRefusesALongerProgram : Prop :=
  ∀ (program : List Byte) (s : State), 3584 < program.length →
    ∃ t, perform (.reset program) s = .next t ∧ t.mode = .faulted (.loadError program.length)

/-- R303, R316 and the spec's decisions D6, D7, D20 (log entries 1 and 6): after reset, FX29 and then DXYN with N = 5 at
the top left draws the glyph of VX's low nibble: pixel (column c, row r) is bit 7 - c of the glyph's byte r. -/
def Obligations.GlyphIsDrawnFromResetMemory : Prop :=
  ∀ (x y : Reg) (s : State), s.mem = [] → s.fb = clearFrame → s.reg y = 0 →
    ∃ t u, exec (.ldF x) s = .next t ∧ exec (.drw y y 5) t = .next u ∧ u.reg 15 = 0 ∧
      ∀ (r : Fin 32) (c : Fin 64), pixel u.fb r c =
        (decide (r.val < 5) && decide (c.val < 8) &&
          (font.getD (5 * ((s.reg x).toNat % 16) + r.val) 0).getLsbD (7 - c.val))
end

