-- ==== Sys2Proof/Laws/Draw.lean ====
section
/-! SUPPORT. What drawing a sprite does to the framebuffer: the loops of R211 flip exactly the pixels the sprite lights,
each once, and report a hit exactly when one of them was on (44_display.md R211, R212). -/

namespace Sys2Proof.Machine

theorem pixel_setPixel (fb : Config.Frame) (py qy : Fin 32) (px qx : Fin 64) (b : Bool) :
    pixel (setPixel fb py px b) qy qx = if (qy, qx) = (py, px) then b else pixel fb qy qx := by
  simp only [pixel, setPixel, Fin.getElem_fin, Vector.getElem_set, Prod.mk.injEq, Fin.ext_iff]
  by_cases hy : py.val = qy.val
  · have hy' : py = qy := Fin.ext hy
    subst hy'
    simp only [if_true, Vector.getElem_set, true_and, eq_comm]
  · simp [hy, eq_comm]

@[simp] theorem pixel_clearFrame (py : Fin 32) (px : Fin 64) : pixel clearFrame py px = false := by
  simp [pixel, clearFrame]

/-- Two framebuffers with the same pixels are equal. -/
theorem frame_ext (fb gb : Config.Frame) (h : ∀ py px, pixel fb py px = pixel gb py px) : fb = gb := by
  apply Vector.ext
  intro y hy
  apply Vector.ext
  intro x hx
  exact h ⟨y, hy⟩ ⟨x, hx⟩

/-- The pixels one sprite row lights, in the order of the loop of R211. -/
def litRow (x0 : Nat) (py : Fin 32) (row : Byte) : List (Fin 32 × Fin 64) :=
  ((List.range 8).filter fun c => row.getLsbD (7 - c)).map fun c => (py, Fin.ofNat 64 (x0 + c))

/-- The pixels a sprite lights, row after row. -/
def litRows (x0 : Nat) : Nat → List Byte → List (Fin 32 × Fin 64)
  | _, [] => []
  | y, row :: rows => litRow x0 (Fin.ofNat 32 y) row ++ litRows x0 (y + 1) rows

theorem drawRows_eq_foldl (x0 y : Nat) (rows : List Byte) (acc : Config.Frame × Bool) :
    drawRows x0 y rows acc = (litRows x0 y rows).foldl (fun acc p => flipPixel acc p.1 p.2) acc := by
  induction rows generalizing y acc with
  | nil => rfl
  | cons row rows ih => simp [drawRows, litRows, litRow, drawRow, ih, List.foldl_map, List.foldl_filter]

/-- Flipping distinct pixels one after the other flips each of them and no other, and reports whether one was on. -/
theorem foldl_flipPixel (l : List (Fin 32 × Fin 64)) (hl : l.Nodup) (acc : Config.Frame × Bool) :
    (∀ qy qx, pixel (l.foldl (fun acc p => flipPixel acc p.1 p.2) acc).1 qy qx =
      (pixel acc.1 qy qx ^^ decide ((qy, qx) ∈ l))) ∧
    (l.foldl (fun acc p => flipPixel acc p.1 p.2) acc).2 = (acc.2 || l.any fun p => pixel acc.1 p.1 p.2) := by
  induction l generalizing acc with
  | nil => simp
  | cons p l ih =>
    obtain ⟨hp, hl⟩ := List.nodup_cons.1 hl
    obtain ⟨ih1, ih2⟩ := ih hl (flipPixel acc p.1 p.2)
    have hflip : ∀ qy qx, pixel (flipPixel acc p.1 p.2).1 qy qx =
        if (qy, qx) = p then !pixel acc.1 qy qx else pixel acc.1 qy qx := by
      intro qy qx
      rw [flipPixel, pixel_setPixel]
      by_cases h : (qy, qx) = p
      · subst h; simp
      · simp [h]
    refine ⟨fun qy qx => ?_, ?_⟩
    · rw [List.foldl_cons, ih1, hflip]
      by_cases h : (qy, qx) = p
      · subst h; simp [hp]
      · simp [h]
    · have hany : (l.any fun q => pixel (flipPixel acc p.1 p.2).1 q.1 q.2) = l.any fun q => pixel acc.1 q.1 q.2 := by
        rw [Bool.eq_iff_iff, List.any_eq_true, List.any_eq_true]
        refine exists_congr fun q => and_congr_right fun hq => ?_
        rw [hflip, if_neg]
        rintro rfl
        exact hp hq
      rw [List.foldl_cons, ih2, hany]
      simp [flipPixel, Bool.or_assoc]

theorem mem_litRow (x0 : Nat) (py : Fin 32) (row : Byte) (qy : Fin 32) (qx : Fin 64) :
    (qy, qx) ∈ litRow x0 py row ↔
      qy = py ∧ ∃ c < 8, row.getLsbD (7 - c) = true ∧ qx = Fin.ofNat 64 (x0 + c) := by
  simp only [litRow, List.mem_map, List.mem_filter, List.mem_range, Prod.mk.injEq]
  constructor
  · rintro ⟨c, ⟨hc, hb⟩, rfl, rfl⟩
    exact ⟨rfl, c, hc, hb, rfl⟩
  · rintro ⟨rfl, c, hc, hb, rfl⟩
    exact ⟨c, ⟨hc, hb⟩, rfl, rfl⟩

theorem mem_litRows (x0 y : Nat) (rows : List Byte) (qy : Fin 32) (qx : Fin 64) :
    (qy, qx) ∈ litRows x0 y rows ↔
      ∃ r c, r < rows.length ∧ c < 8 ∧ (rows.getD r 0).getLsbD (7 - c) = true ∧
        qx = Fin.ofNat 64 (x0 + c) ∧ qy = Fin.ofNat 32 (y + r) := by
  induction rows generalizing y with
  | nil => simp [litRows]
  | cons row rows ih =>
    rw [litRows, List.mem_append, mem_litRow, ih]
    constructor
    · rintro (⟨rfl, c, hc, hb, rfl⟩ | ⟨r, c, hr, hc, hb, rfl, rfl⟩)
      · exact ⟨0, c, by simp, hc, by simpa using hb, rfl, rfl⟩
      · exact ⟨r + 1, c, by simpa using hr, hc, by simpa using hb, rfl, by rw [show y + 1 + r = y + (r + 1) by omega]⟩
    · rintro ⟨r, c, hr, hc, hb, rfl, rfl⟩
      cases r with
      | zero => exact .inl ⟨rfl, c, hc, by simpa using hb, rfl⟩
      | succ r =>
        exact .inr ⟨r, c, by simpa using hr, hc, by simpa using hb, rfl, by rw [show y + 1 + r = y + (r + 1) by omega]⟩

theorem nodup_litRow (x0 : Nat) (py : Fin 32) (row : Byte) : (litRow x0 py row).Nodup := by
  refine List.Nodup.map_on ?_ (List.nodup_range.filter _)
  intro c hc d hd h
  simp only [List.mem_filter, List.mem_range, Prod.mk.injEq, true_and, Fin.ext_iff, Fin.val_ofNat] at hc hd h
  omega

/-- A sprite of at most 32 rows lights each pixel at most once (R212). -/
theorem nodup_litRows (x0 y : Nat) (rows : List Byte) (h : rows.length ≤ 32) : (litRows x0 y rows).Nodup := by
  induction rows generalizing y with
  | nil => exact List.nodup_nil
  | cons row rows ih =>
    rw [List.length_cons] at h
    refine (nodup_litRow ..).append (ih (y + 1) (by omega)) ?_
    rintro ⟨qy, qx⟩ h1 h2
    obtain ⟨rfl, -⟩ := (mem_litRow ..).1 h1
    obtain ⟨r, c, hr, -, -, -, h3⟩ := (mem_litRows ..).1 h2
    simp only [Fin.ext_iff, Fin.val_ofNat] at h3
    omega

/-- The law of `drawSprite`: every pixel the sprite lights is flipped, every other one is kept, and the hit is reported
exactly when a lit pixel was on. -/
theorem drawSprite_spec (fb : Config.Frame) (x0 y0 : Nat) (rows : List Byte) (h : rows.length ≤ 32) :
    (∀ qy qx, pixel (drawSprite fb x0 y0 rows).1 qy qx =
      (pixel fb qy qx ^^ decide ((qy, qx) ∈ litRows x0 y0 rows))) ∧
    ((drawSprite fb x0 y0 rows).2 = true ↔ ∃ qy qx, (qy, qx) ∈ litRows x0 y0 rows ∧ pixel fb qy qx = true) := by
  obtain ⟨h1, h2⟩ := foldl_flipPixel _ (nodup_litRows x0 y0 rows h) (fb, false)
  rw [drawSprite, drawRows_eq_foldl]
  refine ⟨h1, ?_⟩
  rw [h2]
  simp

end Sys2Proof.Machine
end

