-- ==== Sys2Proof/Laws/Memory.lean ====
section
/-! SUPPORT. The laws of memory: read after write, writes leave other places alone, every operation keeps the canonical
form, and what the bounds check answers. -/

namespace Sys2Proof.Machine

/-! ## Reading after a write -/

theorem Memory.read_filter_other (m : Memory) (a b : Nat) (h : b ≠ a) :
    Memory.read (m.filter fun e => !decide (e.1 = a)) b = Memory.read m b := by
  induction m with
  | nil => rfl
  | cons e rest ih =>
    by_cases he : e.1 = a
    · simp [he, Memory.read, Ne.symm h, ih]
    · simp [he, Memory.read, ih]

theorem Memory.read_filter_same (m : Memory) (a : Nat) :
    Memory.read (m.filter fun e => !decide (e.1 = a)) a = unlistedByte a := by
  induction m with
  | nil => rfl
  | cons e rest ih =>
    by_cases he : e.1 = a
    · simpa [he] using ih
    · simp [he, Memory.read, ih]

theorem Memory.read_insertCell_other (m : Memory) (a b : Nat) (c : Byte) (h : b ≠ a) :
    Memory.read (Memory.insertCell m a c) b = Memory.read m b := by
  induction m with
  | nil => simp [Memory.insertCell, Memory.read, Ne.symm h]
  | cons e rest ih =>
    by_cases he : a < e.1
    · simp [Memory.insertCell, he, Memory.read, Ne.symm h]
    · simp [Memory.insertCell, he, Memory.read, ih]

theorem Memory.read_insertCell_same (m : Memory) (a : Nat) (c : Byte) (h : ∀ e ∈ m, e.1 ≠ a) :
    Memory.read (Memory.insertCell m a c) a = c := by
  induction m with
  | nil => simp [Memory.insertCell, Memory.read]
  | cons e rest ih =>
    by_cases he : a < e.1
    · simp [Memory.insertCell, he, Memory.read]
    · have h1 := h e (by simp)
      simp [Memory.insertCell, he, Memory.read, h1, ih fun e he => h e (by simp [he])]

/-- Memory is plain storage: a write changes what its own address reads as and nothing else (R68). -/
theorem Memory.read_write (m : Memory) (a b : Nat) (c : Byte) :
    (m.write a c).read b = if b = a then c else m.read b := by
  by_cases h : b = a
  · subst h
    by_cases hc : c = unlistedByte b
    · simpa [Memory.write, hc] using Memory.read_filter_same m b
    · simpa [Memory.write, hc] using
        Memory.read_insertCell_same (m.filter fun e => !decide (e.1 = b)) b c (by simp)
  · by_cases hc : c = unlistedByte a
    · simpa [Memory.write, hc, h] using Memory.read_filter_other m a b h
    · have h1 := Memory.read_insertCell_other (m.filter fun e => !decide (e.1 = a)) a b c h
      rw [Memory.read_filter_other m a b h] at h1
      simpa [Memory.write, hc, h] using h1

/-- A list written at `a` is read back at `a`, `a + 1`, …, and every other address reads as before. -/
theorem Memory.read_writeList (cs : List Byte) (m : Memory) (a b : Nat) :
    (m.writeList a cs).read b = if a ≤ b then cs.getD (b - a) (m.read b) else m.read b := by
  induction cs generalizing m a with
  | nil => simp [Memory.writeList]
  | cons c cs ih =>
    rw [Memory.writeList, ih, Memory.read_write]
    rcases Nat.lt_trichotomy b a with h | h | h
    · simp [show ¬ a ≤ b by omega, show ¬ a + 1 ≤ b by omega, show b ≠ a by omega]
    · simp [h]
    · obtain ⟨d, rfl⟩ : ∃ d, b = a + (d + 1) := ⟨b - a - 1, by omega⟩
      simp [show a + (d + 1) - (a + 1) = d by omega]

theorem Memory.read_writeList_outside (cs : List Byte) (m : Memory) (a b : Nat) (h : b < a ∨ a + cs.length ≤ b) :
    (m.writeList a cs).read b = m.read b := by
  rw [Memory.read_writeList]
  split
  · rw [List.getD_eq_getElem?_getD, List.getElem?_eq_none (by omega), Option.getD_none]
  · rfl

/-! ## The canonical form -/

theorem Memory.wf_cons (e : Host.Cell) (rest : Memory) :
    Memory.wf (e :: rest) = true ↔
      e.1 < 4096 ∧ e.2 ≠ unlistedByte e.1 ∧ (∀ d ∈ rest, e.1 < d.1) ∧ Memory.wf rest = true := by
  obtain ⟨a, c⟩ := e
  simp only [Memory.wf, Bool.and_eq_true, decide_eq_true_eq, List.all_eq_true, and_assoc]
  rfl

theorem Memory.wf_filter (m : Memory) (p : Host.Cell → Bool) (h : Memory.wf m = true) :
    Memory.wf (m.filter p) = true := by
  induction m with
  | nil => rfl
  | cons e rest ih =>
    rw [Memory.wf_cons] at h
    obtain ⟨h1, h2, h3, h4⟩ := h
    cases hp : p e
    · simpa [hp] using ih h4
    · rw [List.filter_cons_of_pos hp, Memory.wf_cons]
      exact ⟨h1, h2, fun d hd => h3 d (List.mem_of_mem_filter hd), ih h4⟩

theorem Memory.mem_insertCell (m : Memory) (a : Nat) (c : Byte) (d : Host.Cell)
    (h : d ∈ Memory.insertCell m a c) : d = (a, c) ∨ d ∈ m := by
  induction m with
  | nil => simpa [Memory.insertCell] using h
  | cons e rest ih =>
    by_cases he : a < e.1
    · simpa [Memory.insertCell, he] using h
    · simp only [Memory.insertCell, he, if_false, List.mem_cons] at h ⊢
      rcases h with h | h
      · exact .inr (.inl h)
      · exact (ih h).imp_right .inr

theorem Memory.wf_insertCell (m : Memory) (a : Nat) (c : Byte) (h : Memory.wf m = true) (ha : a < 4096)
    (hc : c ≠ unlistedByte a) (hm : ∀ e ∈ m, e.1 ≠ a) : Memory.wf (Memory.insertCell m a c) = true := by
  induction m with
  | nil => rw [Memory.insertCell, Memory.wf_cons]; simp [ha, hc, Memory.wf]
  | cons e rest ih =>
    have h0 := h
    rw [Memory.wf_cons] at h
    obtain ⟨h1, h2, h3, h4⟩ := h
    by_cases he : a < e.1
    · rw [Memory.insertCell, if_pos he, Memory.wf_cons]
      refine ⟨ha, hc, fun d hd => ?_, h0⟩
      rcases List.mem_cons.1 hd with rfl | hd
      · exact he
      · exact he.trans (h3 d hd)
    · rw [Memory.insertCell, if_neg he, Memory.wf_cons]
      refine ⟨h1, h2, fun d hd => ?_, ih h4 fun e he => hm e (by simp [he])⟩
      have hne := hm e (by simp)
      rcases Memory.mem_insertCell rest a c d hd with rfl | hd
      · show e.1 < a
        omega
      · exact h3 d hd

/-- A write to an address that exists keeps the canonical form. -/
theorem Memory.wf_write (m : Memory) (a : Nat) (c : Byte) (h : Memory.wf m = true) (ha : a < 4096) :
    Memory.wf (m.write a c) = true := by
  unfold Memory.write
  by_cases hc : c = unlistedByte a
  · simpa [hc] using Memory.wf_filter m (fun e => !decide (e.1 = a)) h
  · simpa [hc] using
      Memory.wf_insertCell _ a c (Memory.wf_filter m (fun e => !decide (e.1 = a)) h) ha hc (by simp)

/-- A list written inside memory keeps the canonical form. -/
theorem Memory.wf_writeList (cs : List Byte) (m : Memory) (a : Nat) (h : Memory.wf m = true)
    (ha : a + cs.length ≤ 4096) : Memory.wf (m.writeList a cs) = true := by
  induction cs generalizing m a with
  | nil => exact h
  | cons c cs ih =>
    rw [List.length_cons] at ha
    exact ih (m.write a c) (a + 1) (Memory.wf_write m a c h (by omega)) (by omega)

/-- Reset memory has the canonical form. -/
theorem reset_mem_wf : Memory.wf State.reset.mem = true := rfl

/-! ## What an unlisted address reads as -/

/-- The 80 bytes from FONT_BASE on read as the font (R303). -/
theorem unlistedByte_font (j : Nat) (h : j < 80) : unlistedByte (0x050 + j) = font.getD j 0 := by
  rw [unlistedByte, if_pos, Config.fontBase, Nat.add_sub_cancel_left]
  simp only [Config.fontBase]
  omega

/-- Every other address reads as 0x00 (R302). -/
theorem unlistedByte_zero (a : Nat) (h : a < 0x050 ∨ 0x0A0 ≤ a) : unlistedByte a = 0 := by
  rw [unlistedByte, if_neg]
  simp only [Config.fontBase]
  omega

/-! ## The bounds check -/

/-- The check passes exactly when no address is asked for or the last one is at most 0xFFF (R60, R61). -/
theorem lowestBad_eq_none (a n : Nat) : lowestBad a n = none ↔ n = 0 ∨ a + n ≤ 4096 := by
  induction n generalizing a with
  | zero => simp [lowestBad]
  | succ n ih =>
    by_cases h : a ≤ 0xFFF
    · simp only [lowestBad, addrExists, h, decide_true, if_true, ih]
      omega
    · simp only [lowestBad, addrExists, h, decide_false]
      simp
      omega

/-- The lowest bad address is the larger of the first address and 0x1000 (R251, R194). -/
theorem lowestBad_eq_some (a n : Nat) (hn : n ≠ 0) (h : 4096 < a + n) : lowestBad a n = some (max a 0x1000) := by
  induction n generalizing a with
  | zero => exact absurd rfl hn
  | succ n ih =>
    by_cases ha : a ≤ 0xFFF
    · simp only [lowestBad, addrExists, ha, decide_true, if_true]
      rw [ih (a + 1) (by omega) (by omega), show max (a + 1) 0x1000 = max a 0x1000 by omega]
    · simp only [lowestBad, addrExists, ha, decide_false]
      simp
      omega

theorem lowestBad_cases (a n : Nat) :
    (lowestBad a n = none ∧ (n = 0 ∨ a + n ≤ 4096)) ∨
      (lowestBad a n = some (max a 0x1000) ∧ n ≠ 0 ∧ 4096 < a + n) := by
  by_cases h : n = 0 ∨ a + n ≤ 4096
  · exact .inl ⟨(lowestBad_eq_none a n).2 h, h⟩
  · exact .inr ⟨lowestBad_eq_some a n (by omega) (by omega), by omega, by omega⟩

end Sys2Proof.Machine
end

