-- ==== Sys2Proof/Laws/State.lean ====
section
/-! SUPPORT. One lemma per field per named update of State, so that no later proof unfolds a record update. -/

namespace Sys2Proof.Machine

variable (s : State) (x r : Reg) (b : Byte) (w : Word) (f : Fault)

/-! ## Writing a V register -/

@[simp] theorem setReg_i : (s.setReg x b).i = s.i := rfl
@[simp] theorem setReg_pc : (s.setReg x b).pc = s.pc := rfl
@[simp] theorem setReg_stack : (s.setReg x b).stack = s.stack := rfl
@[simp] theorem setReg_dt : (s.setReg x b).dt = s.dt := rfl
@[simp] theorem setReg_st : (s.setReg x b).st = s.st := rfl
@[simp] theorem setReg_mode : (s.setReg x b).mode = s.mode := rfl
@[simp] theorem setReg_mem : (s.setReg x b).mem = s.mem := rfl
@[simp] theorem setReg_fb : (s.setReg x b).fb = s.fb := rfl
@[simp] theorem setReg_keys : (s.setReg x b).keys = s.keys := rfl
@[simp] theorem setReg_draws : (s.setReg x b).draws = s.draws := rfl
@[simp] theorem setReg_schedule : (s.setReg x b).schedule = s.schedule := rfl

theorem reg_setReg : (s.setReg x b).reg r = if r = x then b else s.reg r := by
  unfold State.reg State.setReg
  rw [Fin.getElem_fin, Fin.getElem_fin, Vector.getElem_set]
  simp only [Fin.ext_iff, eq_comm]

@[simp] theorem reg_setReg_same : (s.setReg x b).reg x = b := by simp [reg_setReg]

theorem reg_setReg_other (h : r ≠ x) : (s.setReg x b).reg r = s.reg r := by simp [reg_setReg, h]

/-! ## Jumps -/

@[simp] theorem jump_v : (s.jump w).v = s.v := rfl
@[simp] theorem jump_reg : (s.jump w).reg r = s.reg r := rfl
@[simp] theorem jump_i : (s.jump w).i = s.i := rfl
@[simp] theorem jump_pc : (s.jump w).pc = w := rfl
@[simp] theorem jump_stack : (s.jump w).stack = s.stack := rfl
@[simp] theorem jump_dt : (s.jump w).dt = s.dt := rfl
@[simp] theorem jump_st : (s.jump w).st = s.st := rfl
@[simp] theorem jump_mode : (s.jump w).mode = s.mode := rfl
@[simp] theorem jump_mem : (s.jump w).mem = s.mem := rfl
@[simp] theorem jump_fb : (s.jump w).fb = s.fb := rfl
@[simp] theorem jump_keys : (s.jump w).keys = s.keys := rfl
@[simp] theorem jump_keyDown (k : Key) : (s.jump w).keyDown k = s.keyDown k := rfl
@[simp] theorem jump_draws : (s.jump w).draws = s.draws := rfl
@[simp] theorem jump_schedule : (s.jump w).schedule = s.schedule := rfl

@[simp] theorem advance_eq : advance s = s.jump (s.pc + 2) := rfl

/-! ## Skips -/

theorem skipIf_eq (c : Bool) : skipIf c s = s.jump (if c then s.pc + 2 else s.pc) := by
  cases c <;> rfl

/-! ## Fault entry -/

@[simp] theorem raise_mode : (raise f s).mode = .faulted f := rfl
@[simp] theorem raise_draws : (raise f s).draws = s.draws + 1 := rfl
@[simp] theorem raise_schedule : (raise f s).schedule = s.schedule := rfl
@[simp] theorem raise_faultRecord : (raise f s).faultRecord = some f := rfl

/-! ## The random source -/

@[simp] theorem drawByte_fst : (drawByte s).1 = Config.randomByte s.draws := rfl
@[simp] theorem drawByte_snd : (drawByte s).2 = { s with draws := s.draws + 1 } := rfl

/-! ## Result and flag -/

theorem reg_setFlag (c : Bool) : (setFlag s c).reg r = if r = 15 then flagByte c else s.reg r := reg_setReg ..

@[simp] theorem setFlag_pc (c : Bool) : (setFlag s c).pc = s.pc := rfl
@[simp] theorem setFlag_i (c : Bool) : (setFlag s c).i = s.i := rfl
@[simp] theorem setFlag_stack (c : Bool) : (setFlag s c).stack = s.stack := rfl
@[simp] theorem setFlag_dt (c : Bool) : (setFlag s c).dt = s.dt := rfl
@[simp] theorem setFlag_st (c : Bool) : (setFlag s c).st = s.st := rfl
@[simp] theorem setFlag_mode (c : Bool) : (setFlag s c).mode = s.mode := rfl
@[simp] theorem setFlag_mem (c : Bool) : (setFlag s c).mem = s.mem := rfl
@[simp] theorem setFlag_fb (c : Bool) : (setFlag s c).fb = s.fb := rfl
@[simp] theorem setFlag_keys (c : Bool) : (setFlag s c).keys = s.keys := rfl

/-- VF holds the flag; VX the result unless X = F; every other register its old value (R162). -/
theorem reg_writeResultThenFlag (c : Bool) :
    (writeResultThenFlag s x b c).reg r = if r = 15 then flagByte c else if r = x then b else s.reg r := by
  rw [writeResultThenFlag, reg_setFlag, reg_setReg]

@[simp] theorem writeResultThenFlag_pc (c : Bool) : (writeResultThenFlag s x b c).pc = s.pc := rfl
@[simp] theorem writeResultThenFlag_i (c : Bool) : (writeResultThenFlag s x b c).i = s.i := rfl
@[simp] theorem writeResultThenFlag_stack (c : Bool) : (writeResultThenFlag s x b c).stack = s.stack := rfl
@[simp] theorem writeResultThenFlag_dt (c : Bool) : (writeResultThenFlag s x b c).dt = s.dt := rfl
@[simp] theorem writeResultThenFlag_st (c : Bool) : (writeResultThenFlag s x b c).st = s.st := rfl
@[simp] theorem writeResultThenFlag_mode (c : Bool) : (writeResultThenFlag s x b c).mode = s.mode := rfl
@[simp] theorem writeResultThenFlag_mem (c : Bool) : (writeResultThenFlag s x b c).mem = s.mem := rfl
@[simp] theorem writeResultThenFlag_fb (c : Bool) : (writeResultThenFlag s x b c).fb = s.fb := rfl
@[simp] theorem writeResultThenFlag_keys (c : Bool) : (writeResultThenFlag s x b c).keys = s.keys := rfl

/-! ## Loading a list of registers -/

@[simp] theorem loadRegList_pc (bs : List Byte) : (loadRegList s bs).pc = s.pc := by dsimp only [loadRegList]
@[simp] theorem loadRegList_i (bs : List Byte) : (loadRegList s bs).i = s.i := by dsimp only [loadRegList]
@[simp] theorem loadRegList_stack (bs : List Byte) : (loadRegList s bs).stack = s.stack := by dsimp only [loadRegList]
@[simp] theorem loadRegList_dt (bs : List Byte) : (loadRegList s bs).dt = s.dt := by dsimp only [loadRegList]
@[simp] theorem loadRegList_st (bs : List Byte) : (loadRegList s bs).st = s.st := by dsimp only [loadRegList]
@[simp] theorem loadRegList_mode (bs : List Byte) : (loadRegList s bs).mode = s.mode := by dsimp only [loadRegList]
@[simp] theorem loadRegList_mem (bs : List Byte) : (loadRegList s bs).mem = s.mem := by dsimp only [loadRegList]
@[simp] theorem loadRegList_fb (bs : List Byte) : (loadRegList s bs).fb = s.fb := by dsimp only [loadRegList]
@[simp] theorem loadRegList_keys (bs : List Byte) : (loadRegList s bs).keys = s.keys := by dsimp only [loadRegList]
@[simp] theorem loadRegList_draws (bs : List Byte) : (loadRegList s bs).draws = s.draws := by dsimp only [loadRegList]
@[simp] theorem loadRegList_schedule (bs : List Byte) : (loadRegList s bs).schedule = s.schedule := by
  dsimp only [loadRegList]

/-- Register `k` takes byte `k` of the list if there is one, and keeps its value otherwise. -/
theorem reg_loadRegList (bs : List Byte) : (loadRegList s bs).reg r = bs.getD r.val (s.reg r) := by
  simp [State.reg, loadRegList]

/-! ## Registers and keys under an update of another field -/

@[simp] theorem reg_with_i (a : Word) : ({ s with i := a } : State).reg r = s.reg r := rfl
@[simp] theorem reg_with_pc (a : Word) : ({ s with pc := a } : State).reg r = s.reg r := rfl
@[simp] theorem reg_with_stack (a : List Word) : ({ s with stack := a } : State).reg r = s.reg r := rfl
@[simp] theorem reg_with_dt (a : Byte) : ({ s with dt := a } : State).reg r = s.reg r := rfl
@[simp] theorem reg_with_st (a : Byte) : ({ s with st := a } : State).reg r = s.reg r := rfl
@[simp] theorem reg_with_mode (a : Mode) : ({ s with mode := a } : State).reg r = s.reg r := rfl
@[simp] theorem reg_with_mem (a : Memory) : ({ s with mem := a } : State).reg r = s.reg r := rfl
@[simp] theorem reg_with_fb (a : Config.Frame) : ({ s with fb := a } : State).reg r = s.reg r := rfl
@[simp] theorem reg_with_keys (a : Vector Bool 16) : ({ s with keys := a } : State).reg r = s.reg r := rfl
@[simp] theorem reg_with_draws (a : Nat) : ({ s with draws := a } : State).reg r = s.reg r := rfl
@[simp] theorem reg_with_schedule (a : List Transaction) : ({ s with schedule := a } : State).reg r = s.reg r := rfl

@[simp] theorem keyDown_with_i (a : Word) (k : Key) : ({ s with i := a } : State).keyDown k = s.keyDown k := rfl
@[simp] theorem keyDown_with_pc (a : Word) (k : Key) : ({ s with pc := a } : State).keyDown k = s.keyDown k := rfl
@[simp] theorem keyDown_with_stack (a : List Word) (k : Key) : ({ s with stack := a } : State).keyDown k = s.keyDown k := rfl
@[simp] theorem keyDown_with_dt (a : Byte) (k : Key) : ({ s with dt := a } : State).keyDown k = s.keyDown k := rfl
@[simp] theorem keyDown_with_st (a : Byte) (k : Key) : ({ s with st := a } : State).keyDown k = s.keyDown k := rfl
@[simp] theorem keyDown_with_mode (a : Mode) (k : Key) : ({ s with mode := a } : State).keyDown k = s.keyDown k := rfl
@[simp] theorem keyDown_with_mem (a : Memory) (k : Key) : ({ s with mem := a } : State).keyDown k = s.keyDown k := rfl
@[simp] theorem keyDown_with_fb (a : Config.Frame) (k : Key) : ({ s with fb := a } : State).keyDown k = s.keyDown k := rfl
@[simp] theorem keyDown_with_draws (a : Nat) (k : Key) : ({ s with draws := a } : State).keyDown k = s.keyDown k := rfl
@[simp] theorem keyDown_with_schedule (a : List Transaction) (k : Key) : ({ s with schedule := a } : State).keyDown k = s.keyDown k := rfl

@[simp] theorem keyDown_setReg (k : Key) : (s.setReg x b).keyDown k = s.keyDown k := rfl
@[simp] theorem keyDown_setFlag (c : Bool) (k : Key) : (setFlag s c).keyDown k = s.keyDown k := rfl
@[simp] theorem keyDown_writeResultThenFlag (c : Bool) (k : Key) :
    (writeResultThenFlag s x b c).keyDown k = s.keyDown k := rfl

/-! ## Drawing -/

@[simp] theorem reg_drawAt (x0 y0 : Nat) (rows : List Byte) :
    (drawAt s x0 y0 rows).reg r = if r = 15 then flagByte (drawSprite s.fb x0 y0 rows).2 else s.reg r :=
  reg_setFlag ..

@[simp] theorem drawAt_i (x0 y0 : Nat) (rows : List Byte) : (drawAt s x0 y0 rows).i = s.i := rfl
@[simp] theorem drawAt_pc (x0 y0 : Nat) (rows : List Byte) : (drawAt s x0 y0 rows).pc = s.pc := rfl
@[simp] theorem drawAt_stack (x0 y0 : Nat) (rows : List Byte) : (drawAt s x0 y0 rows).stack = s.stack := rfl
@[simp] theorem drawAt_dt (x0 y0 : Nat) (rows : List Byte) : (drawAt s x0 y0 rows).dt = s.dt := rfl
@[simp] theorem drawAt_st (x0 y0 : Nat) (rows : List Byte) : (drawAt s x0 y0 rows).st = s.st := rfl
@[simp] theorem drawAt_mode (x0 y0 : Nat) (rows : List Byte) : (drawAt s x0 y0 rows).mode = s.mode := rfl
@[simp] theorem drawAt_mem (x0 y0 : Nat) (rows : List Byte) : (drawAt s x0 y0 rows).mem = s.mem := rfl
@[simp] theorem drawAt_fb (x0 y0 : Nat) (rows : List Byte) :
    (drawAt s x0 y0 rows).fb = (drawSprite s.fb x0 y0 rows).1 := rfl
@[simp] theorem drawAt_keys (x0 y0 : Nat) (rows : List Byte) : (drawAt s x0 y0 rows).keys = s.keys := rfl
@[simp] theorem drawAt_draws (x0 y0 : Nat) (rows : List Byte) : (drawAt s x0 y0 rows).draws = s.draws := rfl
@[simp] theorem drawAt_schedule (x0 y0 : Nat) (rows : List Byte) : (drawAt s x0 y0 rows).schedule = s.schedule := rfl

/-! ## Keys -/

theorem keyDown_set (k j : Key) (c : Bool) :
    ({ s with keys := s.keys.set k c } : State).keyDown j = if j = k then c else s.keyDown j := by
  unfold State.keyDown
  rw [Fin.getElem_fin, Fin.getElem_fin, Vector.getElem_set]
  simp only [Fin.ext_iff, eq_comm]

end Sys2Proof.Machine
end

