-- ==== Sys2Proof/Laws/Ops.lean ====
section
/-! SUPPORT. For each shared operation, once, everything it can answer. -/

namespace Sys2Proof.Machine

/-! ## Completing or raising -/

@[simp] theorem complete_ok (s t : State) : complete s (.ok t) = .next t := rfl

@[simp] theorem complete_error (s : State) (f : Fault) : complete s (.error f) = .next (raise f s) := rfl

/-! ## The stack -/

theorem push_ok (s : State) (w : Word) (h : s.stack.length < 16) :
    push s w = .ok { s with stack := s.stack ++ [w] } := if_neg (Nat.not_le.2 h)

theorem push_error (s : State) (w : Word) (h : 16 ≤ s.stack.length) :
    push s w = .error (.stackOverflow s.fetchAddr) := if_pos h

theorem pop_ok (s : State) (below : List Word) (w : Word) (h : s.stack = below ++ [w]) :
    pop s = .ok (w, { s with stack := below }) := by simp [pop, h]

theorem pop_error (s : State) (h : s.stack = []) : pop s = .error (.stackUnderflow s.fetchAddr) := by
  simp [pop, h]

/-- A pop either finds a top entry or raises (R32). -/
theorem pop_cases (s : State) :
    (∃ below w, s.stack = below ++ [w] ∧ pop s = .ok (w, { s with stack := below })) ∨
      (s.stack = [] ∧ pop s = .error (.stackUnderflow s.fetchAddr)) := by
  rcases List.eq_nil_or_concat s.stack with h | ⟨below, w, h⟩
  · exact .inr ⟨h, pop_error s h⟩
  · rw [List.concat_eq_append] at h
    exact .inl ⟨below, w, h, pop_ok s below w h⟩

/-! ## Memory accesses -/

theorem readBytes_ok (s : State) (a n : Nat) (h : n = 0 ∨ a + n ≤ 4096) :
    readBytes s a n = .ok ((List.range n).map fun k => s.mem.read (a + k)) := by
  rw [readBytes, (lowestBad_eq_none a n).2 h]

theorem readBytes_error (s : State) (a n : Nat) (hn : n ≠ 0) (h : 4096 < a + n) :
    readBytes s a n = .error (.memoryOutOfBounds s.fetchAddr (max a 0x1000)) := by
  rw [readBytes, lowestBad_eq_some a n hn h]

theorem writeBytes_ok (s : State) (a : Nat) (cs : List Byte) (h : cs.length = 0 ∨ a + cs.length ≤ 4096) :
    writeBytes s a cs = .ok { s with mem := s.mem.writeList a cs } := by
  rw [writeBytes, (lowestBad_eq_none a cs.length).2 h]

theorem writeBytes_error (s : State) (a : Nat) (cs : List Byte) (hn : cs.length ≠ 0) (h : 4096 < a + cs.length) :
    writeBytes s a cs = .error (.memoryOutOfBounds s.fetchAddr (max a 0x1000)) := by
  rw [writeBytes, lowestBad_eq_some a cs.length hn h]

/-! ## Arithmetic -/

theorem addWrap_toNat (a b : Byte) : (addWrap a b).toNat = (a.toNat + b.toNat) % 256 := by simp [addWrap]

theorem subWrap_toNat (a b : Byte) : (subWrap a b).toNat = (a.toNat + 256 - b.toNat) % 256 := by
  have := a.isLt
  have := b.isLt
  unfold subWrap
  split
  · simp; omega
  · simp

theorem flagByte_toNat (c : Bool) : (flagByte c).toNat = if c then 1 else 0 := by cases c <;> rfl

end Sys2Proof.Machine
end

