-- ==== Sys2Proof/Laws/Frames.lean ====
section
/-! SUPPORT. The frame of each named update: which pieces of the state it may change. -/

namespace Sys2Proof.Machine

/-- A frame may be widened. -/
theorem OnlyChanges.mono {may also : Part → Prop} {s t : State} (h : OnlyChanges may s t)
    (hm : ∀ p, may p → also p) : OnlyChanges also s t := fun p hp => h p fun hmay => hp (hm p hmay)

theorem onlyChanges_setReg (s : State) (x : Reg) (b : Byte) : OnlyChanges (fun p => p = .reg x) s (s.setReg x b) := by
  intro p hp
  cases p with
  | reg r => exact reg_setReg_other s x r b fun h => hp (by rw [h])
  | _ => rfl

theorem onlyChanges_jump (s : State) (w : Word) : OnlyChanges (fun p => p = .pc) s (s.jump w) := by
  intro p hp
  cases p with
  | pc => exact absurd rfl hp
  | _ => rfl

theorem onlyChanges_skipIf (c : Bool) (s : State) : OnlyChanges (fun p => p = .pc) s (skipIf c s) := by
  rw [skipIf_eq]
  exact onlyChanges_jump s _

theorem onlyChanges_writeResultThenFlag (s : State) (x : Reg) (b : Byte) (c : Bool) :
    OnlyChanges (fun p => p = .reg x ∨ p = .reg 15) s (writeResultThenFlag s x b c) := by
  intro p hp
  cases p with
  | reg r =>
    rw [not_or] at hp
    exact (reg_writeResultThenFlag s x r b c).trans
      ((if_neg fun h => hp.2 (by rw [h])).trans (if_neg fun h => hp.1 (by rw [h])))
  | _ => rfl

theorem onlyChanges_index (s : State) (w : Word) : OnlyChanges (fun p => p = .index) s { s with i := w } := by
  intro p hp
  cases p with
  | index => exact absurd rfl hp
  | _ => rfl

theorem onlyChanges_delay (s : State) (b : Byte) : OnlyChanges (fun p => p = .delay) s { s with dt := b } := by
  intro p hp
  cases p with
  | delay => exact absurd rfl hp
  | _ => rfl

theorem onlyChanges_sound (s : State) (b : Byte) : OnlyChanges (fun p => p = .sound) s { s with st := b } := by
  intro p hp
  cases p with
  | sound => exact absurd rfl hp
  | _ => rfl

theorem onlyChanges_mode (s : State) (m : Mode) : OnlyChanges (fun p => p = .mode) s { s with mode := m } := by
  intro p hp
  cases p with
  | mode => exact absurd rfl hp
  | _ => rfl

theorem onlyChanges_keys (s : State) (k : Key) (c : Bool) :
    OnlyChanges (fun p => p = .key k) s { s with keys := s.keys.set k c } := by
  intro p hp
  cases p with
  | key j => exact (keyDown_set s k j c).trans (if_neg fun h => hp (by rw [h]))
  | _ => rfl

/-- A list of bytes written at `a` changes only the bytes `a`, `a + 1`, …. -/
theorem onlyChanges_writeList (s : State) (a : Nat) (cs : List Byte) :
    OnlyChanges (fun p => ∃ k, k < cs.length ∧ p = .byte (a + k)) s { s with mem := s.mem.writeList a cs } := by
  intro p hp
  cases p with
  | byte b =>
    refine Memory.read_writeList_outside cs s.mem a b ?_
    by_contra hc
    exact hp ⟨b - a, by omega, by rw [show a + (b - a) = b by omega]⟩
  | reg r => simp only [Part.same, State.reg]
  | key k => simp only [Part.same, State.keyDown]
  | _ => simp only [Part.same]

theorem onlyChanges_loadRegList (s : State) (bs : List Byte) :
    OnlyChanges (fun p => ∃ k : Reg, k.val < bs.length ∧ p = .reg k) s (loadRegList s bs) := by
  intro p hp
  cases p with
  | reg r =>
    refine (reg_loadRegList s r bs).trans ?_
    rw [List.getD_eq_getElem?_getD, List.getElem?_eq_none (Nat.le_of_not_lt fun h => hp ⟨r, h, rfl⟩),
      Option.getD_none]
  | key k => simp only [Part.same, State.keyDown, loadRegList_keys]
  | byte a => simp only [Part.same, loadRegList_mem]
  | pixel py px => simp only [Part.same, loadRegList_fb]
  | index => simp only [Part.same, loadRegList_i]
  | pc => simp only [Part.same, loadRegList_pc]
  | stack => simp only [Part.same, loadRegList_stack]
  | delay => simp only [Part.same, loadRegList_dt]
  | sound => simp only [Part.same, loadRegList_st]
  | mode => simp only [Part.same, loadRegList_mode]

end Sys2Proof.Machine
end

