-- ==== Sys2Proof/Laws/Exec.lean ====
section
/-! SUPPORT. What an instruction that completes does, said once for each instruction: from `Completes i s t` follow
`Effect s i t` and, by cases, the next state and the conditions under which the instruction completes. -/

namespace Sys2Proof.Machine

/-- The next state of each instruction that completes on `s`, with what its completion needs. -/
inductive Effect (s : State) : Instr → State → Prop where
  | cls : Effect s .cls { s with fb := clearFrame }
  | ret (below : List Word) (w : Word) (h : s.stack = below ++ [w]) :
      Effect s .ret (({ s with stack := below } : State).jump w)
  | jp (nnn : Word) : Effect s (.jp nnn) (s.jump nnn)
  | call (nnn : Word) (h : s.stack.length < 16) :
      Effect s (.call nnn) (({ s with stack := s.stack ++ [s.pc] } : State).jump nnn)
  | seImm (x : Reg) (nn : Byte) : Effect s (.seImm x nn) (skipIf (decide (s.reg x = nn)) s)
  | sneImm (x : Reg) (nn : Byte) : Effect s (.sneImm x nn) (skipIf (decide (s.reg x ≠ nn)) s)
  | seReg (x y : Reg) : Effect s (.seReg x y) (skipIf (decide (s.reg x = s.reg y)) s)
  | ldImm (x : Reg) (nn : Byte) : Effect s (.ldImm x nn) (s.setReg x nn)
  | addImm (x : Reg) (nn : Byte) : Effect s (.addImm x nn) (s.setReg x (addWrap (s.reg x) nn))
  | ldReg (x y : Reg) : Effect s (.ldReg x y) (s.setReg x (s.reg y))
  | orReg (x y : Reg) : Effect s (.orReg x y) (s.setReg x (s.reg x ||| s.reg y))
  | andReg (x y : Reg) : Effect s (.andReg x y) (s.setReg x (s.reg x &&& s.reg y))
  | xorReg (x y : Reg) : Effect s (.xorReg x y) (s.setReg x (s.reg x ^^^ s.reg y))
  | addReg (x y : Reg) : Effect s (.addReg x y)
      (writeResultThenFlag s x (addWrap (s.reg x) (s.reg y)) (carryOut (s.reg x) (s.reg y)))
  | sub (x y : Reg) : Effect s (.sub x y)
      (writeResultThenFlag s x (subWrap (s.reg x) (s.reg y)) (noBorrow (s.reg x) (s.reg y)))
  | shr (x y : Reg) : Effect s (.shr x y) (writeResultThenFlag s x (s.reg x >>> 1) (bitOutRight (s.reg x)))
  | subn (x y : Reg) : Effect s (.subn x y)
      (writeResultThenFlag s x (subWrap (s.reg y) (s.reg x)) (noBorrow (s.reg y) (s.reg x)))
  | shl (x y : Reg) : Effect s (.shl x y) (writeResultThenFlag s x (s.reg x <<< 1) (bitOutLeft (s.reg x)))
  | sneReg (x y : Reg) : Effect s (.sneReg x y) (skipIf (decide (s.reg x ≠ s.reg y)) s)
  | ldI (nnn : Word) : Effect s (.ldI nnn) { s with i := nnn }
  | jpV0 (nnn : Word) : Effect s (.jpV0 nnn) (s.jump (offsetTarget s nnn))
  | rnd (x : Reg) (nn : Byte) : Effect s (.rnd x nn)
      (({ s with draws := s.draws + 1 } : State).setReg x (Config.randomByte s.draws &&& nn))
  | drw (x y : Reg) (n : Nat) (h : n = 0 ∨ indexAddr s + n ≤ 4096) : Effect s (.drw x y n)
      (drawAt s (spriteColumn s x) (spriteRow s y) ((List.range n).map fun k => s.mem.read (indexAddr s + k)))
  | skp (x : Reg) : Effect s (.skp x) (skipIf (s.keyDown (keyOf s x)) s)
  | sknp (x : Reg) : Effect s (.sknp x) (skipIf (!s.keyDown (keyOf s x)) s)
  | ldVxDt (x : Reg) : Effect s (.ldVxDt x) (s.setReg x s.dt)
  | ldVxK (x : Reg) : Effect s (.ldVxK x) { s with mode := .waitingForKey x }
  | ldDtVx (x : Reg) : Effect s (.ldDtVx x) { s with dt := s.reg x }
  | ldStVx (x : Reg) : Effect s (.ldStVx x) { s with st := s.reg x }
  | addI (x : Reg) : Effect s (.addI x) { s with i := indexPlus s x }
  | ldF (x : Reg) : Effect s (.ldF x) { s with i := glyphAddr (s.reg x) }
  | ldB (x : Reg) (h : indexAddr s + 3 ≤ 4096) :
      Effect s (.ldB x) { s with mem := s.mem.writeList (indexAddr s) (bcdDigits (s.reg x)) }
  | storeRegs (x : Reg) (h : indexAddr s + (x.val + 1) ≤ 4096) :
      Effect s (.storeRegs x) { s with mem := s.mem.writeList (indexAddr s) (regsUpTo s x) }
  | loadRegs (x : Reg) (h : indexAddr s + (x.val + 1) ≤ 4096) : Effect s (.loadRegs x)
      (loadRegList s ((List.range (x.val + 1)).map fun k => s.mem.read (indexAddr s + k)))

@[simp] theorem bcdDigits_length (b : Byte) : (bcdDigits b).length = 3 := rfl

@[simp] theorem regsUpTo_length (s : State) (x : Reg) : (regsUpTo s x).length = x.val + 1 := by simp [regsUpTo]

/-- A state without a fatal error that `complete` answers is the one the operation gave. -/
theorem ok_of_complete {s t : State} {r : Except Fault State} (h : complete s r = .next t)
    (ht : t.mode.isFaulted = false) : r = .ok t := by
  cases r with
  | ok u =>
    cases h
    rfl
  | error f =>
    cases h
    cases ht

theorem ok_of_map {α : Type} {r : Except Fault α} {f : α → State} {t : State} (h : r.map f = .ok t) :
    ∃ a, r = .ok a ∧ t = f a := by
  cases r with
  | ok a =>
    cases h
    exact ⟨a, rfl, rfl⟩
  | error e => cases h

theorem push_cases {s t : State} {w : Word} (h : push s w = .ok t) :
    s.stack.length < 16 ∧ t = { s with stack := s.stack ++ [w] } := by
  by_cases hl : s.stack.length < 16
  · rw [push_ok s w hl] at h
    cases h
    exact ⟨hl, rfl⟩
  · rw [push_error s w (by omega)] at h
    cases h

theorem writeBytes_cases {s t : State} {a : Nat} {cs : List Byte} (h : writeBytes s a cs = .ok t) :
    (cs.length = 0 ∨ a + cs.length ≤ 4096) ∧ t = { s with mem := s.mem.writeList a cs } := by
  by_cases hc : cs.length = 0 ∨ a + cs.length ≤ 4096
  · rw [writeBytes_ok s a cs hc] at h
    cases h
    exact ⟨hc, rfl⟩
  · rw [writeBytes_error s a cs (by omega) (by omega)] at h
    cases h

theorem readBytes_cases {s : State} {a n : Nat} {bs : List Byte} (h : readBytes s a n = .ok bs) :
    (n = 0 ∨ a + n ≤ 4096) ∧ bs = (List.range n).map fun k => s.mem.read (a + k) := by
  by_cases hc : n = 0 ∨ a + n ≤ 4096
  · rw [readBytes_ok s a n hc] at h
    cases h
    exact ⟨hc, rfl⟩
  · rw [readBytes_error s a n (by omega) (by omega)] at h
    cases h

/-- An instruction that completes has its effect. -/
theorem effect_of_completes {i : Instr} {s t : State} (h : Completes i s t) : Effect s i t := by
  obtain ⟨h, ht⟩ := h
  cases i with
  | ret =>
    obtain ⟨p, hp, rfl⟩ := ok_of_map (ok_of_complete h ht)
    rcases pop_cases s with ⟨below, w, h1, h2⟩ | ⟨-, h2⟩
    · rw [h2] at hp
      cases hp
      exact .ret below w h1
    · rw [h2] at hp
      cases hp
  | call nnn =>
    obtain ⟨u, hu, rfl⟩ := ok_of_map (ok_of_complete h ht)
    obtain ⟨hl, rfl⟩ := push_cases hu
    exact .call nnn hl
  | drw x y n =>
    obtain ⟨bs, hb, rfl⟩ := ok_of_map (ok_of_complete h ht)
    obtain ⟨hr, rfl⟩ := readBytes_cases hb
    exact .drw x y n hr
  | ldB x =>
    obtain ⟨hr, rfl⟩ := writeBytes_cases (ok_of_complete h ht)
    exact .ldB x (hr.resolve_left (by simp))
  | storeRegs x =>
    obtain ⟨hr, rfl⟩ := writeBytes_cases (ok_of_complete h ht)
    rw [regsUpTo_length] at hr
    exact .storeRegs x (hr.resolve_left (by omega))
  | loadRegs x =>
    obtain ⟨bs, hb, rfl⟩ := ok_of_map (ok_of_complete h ht)
    obtain ⟨hr, rfl⟩ := readBytes_cases hb
    exact .loadRegs x (hr.resolve_left (by omega))
  | cls => cases h; exact .cls
  | jp nnn => cases h; exact .jp nnn
  | seImm x nn => cases h; exact .seImm x nn
  | sneImm x nn => cases h; exact .sneImm x nn
  | seReg x y => cases h; exact .seReg x y
  | ldImm x nn => cases h; exact .ldImm x nn
  | addImm x nn => cases h; exact .addImm x nn
  | ldReg x y => cases h; exact .ldReg x y
  | orReg x y => cases h; exact .orReg x y
  | andReg x y => cases h; exact .andReg x y
  | xorReg x y => cases h; exact .xorReg x y
  | addReg x y => cases h; exact .addReg x y
  | sub x y => cases h; exact .sub x y
  | shr x y => cases h; exact .shr x y
  | subn x y => cases h; exact .subn x y
  | shl x y => cases h; exact .shl x y
  | sneReg x y => cases h; exact .sneReg x y
  | ldI nnn => cases h; exact .ldI nnn
  | jpV0 nnn => cases h; exact .jpV0 nnn
  | rnd x nn => cases h; exact .rnd x nn
  | skp x => cases h; exact .skp x
  | sknp x => cases h; exact .sknp x
  | ldVxDt x => cases h; exact .ldVxDt x
  | ldVxK x => cases h; exact .ldVxK x
  | ldDtVx x => cases h; exact .ldDtVx x
  | ldStVx x => cases h; exact .ldStVx x
  | addI x => cases h; exact .addI x
  | ldF x => cases h; exact .ldF x

/-- Drawing changes only pixels and VF. -/
theorem onlyChanges_drawAt (s : State) (x0 y0 : Nat) (rows : List Byte) :
    OnlyChanges (fun p => p = .reg 15 ∨ ∃ py px, p = .pixel py px) s (drawAt s x0 y0 rows) := by
  intro p hp
  rw [not_or] at hp
  cases p with
  | reg r => exact (reg_drawAt s r x0 y0 rows).trans (if_neg fun h => hp.1 (by rw [h]))
  | pixel py px => exact absurd ⟨py, px, rfl⟩ hp.2
  | key k => simp only [Part.same, State.keyDown, drawAt_keys]
  | _ => rfl

end Sys2Proof.Machine
end

