-- ==== Sys2Proof/Laws/PerInstr.lean ====
section
/-! SUPPORT. Statements about every instruction as syntax, one lemma per constructor: the word that encodes a
well-formed instruction lies in the instruction's row of the opcode map (30_encoding.md R100, R110). -/

namespace Sys2Proof.Laws.WordOfRow

/-- The encoding of a well-formed instruction has the mask and pattern of its row of R100. -/
def Statement (i : Instr) : Prop := i.wellFormed = true → i.row.holds (encode i) = true

/-! ## The operand fields lie outside the family nibble -/

theorem placeX_family (x : Reg) : placeX x &&& 0xF000 = 0#16 := by revert x; decide

theorem placeY_family (y : Reg) : placeY y &&& 0xF000 = 0#16 := by revert y; decide

theorem placeNN_family (nn : Byte) : placeNN nn &&& 0xF000 = 0#16 := by revert nn; decide

theorem addr_family (nnn : Word) (h : addrInRange nnn = true) : nnn &&& 0xF000 = 0#16 := by
  have h12 : nnn = (nnn.setWidth 12).setWidth 16 := by
    apply BitVec.eq_of_toNat_eq
    simp only [addrInRange, decide_eq_true_eq] at h
    simp
    omega
  rw [h12]
  ext k hk
  simp
  interval_cases k <;> simp

theorem rows_family (n : Nat) (h : rowsInRange n = true) : BitVec.ofNat 16 n &&& 0xF000 = 0#16 := by
  simp only [rowsInRange, decide_eq_true_eq] at h
  interval_cases n <;> decide

/-- Format XNN: the family nibble is the pattern's. -/
theorem holds_xnn (p : Word) (x : Reg) (nn : Byte) (hp : p &&& 0xF000 = p) :
    (p ||| placeX x ||| placeNN nn) &&& 0xF000 = p := by
  simp only [BitVec.and_or_distrib_right, placeX_family, placeNN_family, BitVec.or_zero, hp]

/-- Format NNN: the family nibble is the pattern's. -/
theorem holds_nnn (p nnn : Word) (h : addrInRange nnn = true) (hp : p &&& 0xF000 = p) :
    (p ||| nnn) &&& 0xF000 = p := by
  simp only [BitVec.and_or_distrib_right, addr_family nnn h, BitVec.or_zero, hp]

/-- Format XY: family nibble and low nibble are the pattern's. -/
theorem holds_xy (p : Word) (x y : Reg) (hp : p &&& 0xF00F = p) : (p ||| placeX x ||| placeY y) &&& 0xF00F = p := by
  have hx : placeX x &&& 0xF00F = 0#16 := by revert x; decide
  have hy : placeY y &&& 0xF00F = 0#16 := by revert y; decide
  simp only [BitVec.and_or_distrib_right, hx, hy, BitVec.or_zero, hp]

/-- Format X: family nibble and low byte are the pattern's. -/
theorem holds_x (p : Word) (x : Reg) (hp : p &&& 0xF0FF = p) : (p ||| placeX x) &&& 0xF0FF = p := by
  have hx : placeX x &&& 0xF0FF = 0#16 := by revert x; decide
  simp only [BitVec.and_or_distrib_right, hx, BitVec.or_zero, hp]

/-! ## One lemma per instruction -/

theorem cls : Statement .cls := fun _ => rfl

theorem ret : Statement .ret := fun _ => rfl

theorem jp (nnn : Word) : Statement (.jp nnn) := fun h => decide_eq_true (holds_nnn _ nnn h rfl)

theorem call (nnn : Word) : Statement (.call nnn) := fun h => decide_eq_true (holds_nnn _ nnn h rfl)

theorem seImm (x : Reg) (nn : Byte) : Statement (.seImm x nn) := fun _ => decide_eq_true (holds_xnn _ x nn rfl)

theorem sneImm (x : Reg) (nn : Byte) : Statement (.sneImm x nn) := fun _ => decide_eq_true (holds_xnn _ x nn rfl)

theorem seReg (x y : Reg) : Statement (.seReg x y) := fun _ => decide_eq_true (holds_xy _ x y rfl)

theorem ldImm (x : Reg) (nn : Byte) : Statement (.ldImm x nn) := fun _ => decide_eq_true (holds_xnn _ x nn rfl)

theorem addImm (x : Reg) (nn : Byte) : Statement (.addImm x nn) := fun _ => decide_eq_true (holds_xnn _ x nn rfl)

theorem ldReg (x y : Reg) : Statement (.ldReg x y) := fun _ => decide_eq_true (holds_xy _ x y rfl)

theorem orReg (x y : Reg) : Statement (.orReg x y) := fun _ => decide_eq_true (holds_xy _ x y rfl)

theorem andReg (x y : Reg) : Statement (.andReg x y) := fun _ => decide_eq_true (holds_xy _ x y rfl)

theorem xorReg (x y : Reg) : Statement (.xorReg x y) := fun _ => decide_eq_true (holds_xy _ x y rfl)

theorem addReg (x y : Reg) : Statement (.addReg x y) := fun _ => decide_eq_true (holds_xy _ x y rfl)

theorem sub (x y : Reg) : Statement (.sub x y) := fun _ => decide_eq_true (holds_xy _ x y rfl)

theorem shr (x y : Reg) : Statement (.shr x y) := fun _ => decide_eq_true (holds_xy _ x y rfl)

theorem subn (x y : Reg) : Statement (.subn x y) := fun _ => decide_eq_true (holds_xy _ x y rfl)

theorem shl (x y : Reg) : Statement (.shl x y) := fun _ => decide_eq_true (holds_xy _ x y rfl)

theorem sneReg (x y : Reg) : Statement (.sneReg x y) := fun _ => decide_eq_true (holds_xy _ x y rfl)

theorem ldI (nnn : Word) : Statement (.ldI nnn) := fun h => decide_eq_true (holds_nnn _ nnn h rfl)

theorem jpV0 (nnn : Word) : Statement (.jpV0 nnn) := fun h => decide_eq_true (holds_nnn _ nnn h rfl)

theorem rnd (x : Reg) (nn : Byte) : Statement (.rnd x nn) := fun _ => decide_eq_true (holds_xnn _ x nn rfl)

theorem drw (x y : Reg) (n : Nat) : Statement (.drw x y n) := fun h => decide_eq_true (by
  show (0xD000 ||| placeX x ||| placeY y ||| BitVec.ofNat 16 n) &&& 0xF000 = 0xD000
  simp only [BitVec.and_or_distrib_right, placeX_family, placeY_family, rows_family n h, BitVec.or_zero]
  rfl)

theorem skp (x : Reg) : Statement (.skp x) := fun _ => decide_eq_true (holds_x _ x rfl)

theorem sknp (x : Reg) : Statement (.sknp x) := fun _ => decide_eq_true (holds_x _ x rfl)

theorem ldVxDt (x : Reg) : Statement (.ldVxDt x) := fun _ => decide_eq_true (holds_x _ x rfl)

theorem ldVxK (x : Reg) : Statement (.ldVxK x) := fun _ => decide_eq_true (holds_x _ x rfl)

theorem ldDtVx (x : Reg) : Statement (.ldDtVx x) := fun _ => decide_eq_true (holds_x _ x rfl)

theorem ldStVx (x : Reg) : Statement (.ldStVx x) := fun _ => decide_eq_true (holds_x _ x rfl)

theorem addI (x : Reg) : Statement (.addI x) := fun _ => decide_eq_true (holds_x _ x rfl)

theorem ldF (x : Reg) : Statement (.ldF x) := fun _ => decide_eq_true (holds_x _ x rfl)

theorem ldB (x : Reg) : Statement (.ldB x) := fun _ => decide_eq_true (holds_x _ x rfl)

theorem storeRegs (x : Reg) : Statement (.storeRegs x) := fun _ => decide_eq_true (holds_x _ x rfl)

theorem loadRegs (x : Reg) : Statement (.loadRegs x) := fun _ => decide_eq_true (holds_x _ x rfl)

end Sys2Proof.Laws.WordOfRow
end

