-- ==== Sys2Proof/Laws/Step.lean ====
section
/-! SUPPORT. What a step can do: one transaction, and for `Step()` the cases of R121 to R125. -/

namespace Sys2Proof.Machine

theorem step_of_empty_schedule (s : State) (h : s.schedule = []) : step s = engineStep s := by
  simp [step, nextTransaction, h, perform]

theorem step_of_schedule (s : State) (tr : Transaction) (rest : List Transaction) (h : s.schedule = tr :: rest) :
    step s = perform tr { s with schedule := rest } := by
  simp [step, nextTransaction, h]

theorem inFetchWindow_iff (pc : Word) : inFetchWindow pc = true ↔ 0x200 ≤ pc.toNat ∧ pc.toNat ≤ 0xFFE := by
  rw [inFetchWindow, Bool.and_eq_true, decide_eq_true_eq, decide_eq_true_eq]
  rfl

/-- Everything `Step()` can do: nothing outside `Running` (R121), `FetchError` (R122), `UnknownOpcode` (R124), or the
decoded instruction on the state with PC advanced (R123, R125). -/
theorem engineStep_cases (s : State) :
    (s.mode ≠ .running ∧ engineStep s = .next s) ∨
    (s.mode = .running ∧ inFetchWindow s.pc = false ∧ engineStep s = .next (raise (.fetchError s.pc) s)) ∨
    (s.mode = .running ∧ inFetchWindow s.pc = true ∧ (∃ e, decode (fetchWord s) = .error e) ∧
      engineStep s = .next (raise (.unknownOpcode s.pc (fetchWord s)) (s.jump (s.pc + 2)))) ∨
    (s.mode = .running ∧ inFetchWindow s.pc = true ∧
      ∃ i, decode (fetchWord s) = .ok i ∧ engineStep s = exec i (s.jump (s.pc + 2))) := by
  unfold engineStep
  cases hm : s.mode with
  | waitingForKey x => exact .inl ⟨by simp, rfl⟩
  | faulted f => exact .inl ⟨by simp, rfl⟩
  | running =>
    cases hw : inFetchWindow s.pc with
    | false => exact .inr (.inl ⟨rfl, rfl, rfl⟩)
    | true =>
      cases hd : decode (fetchWord s) with
      | error e => exact .inr (.inr (.inl ⟨rfl, rfl, ⟨e, rfl⟩, by simp [runFetched, hd]⟩))
      | ok i => exact .inr (.inr (.inr ⟨rfl, rfl, i, rfl, by simp [runFetched, hd]⟩))

end Sys2Proof.Machine
end

