-- ==== Sys2Proof/Tests/Slice0.lean ====
section
/-! SUPPORT. The model's own tests. Expected values are those of 95_test_vectors.md and of the rules' own examples; then
one witness for the hypotheses of each statement, at the boundary values of its clauses. -/

namespace Sys2Proof.Tests

open Sys2Proof.Machine

/-! ## Helpers -/

/-- The reset state with some V registers set. -/
def regs (l : List (Reg × Byte)) : State := l.foldl (fun s p => s.setReg p.1 p.2) State.reset

/-- The state about to fetch the word `op` at `pc`. -/
def fetching (pc : Word) (op : Nat) (s : State) : State := State.withFetchWord { s with pc := pc } 16 op

/-- The state with bytes stored from an address on. -/
def holding (a : Nat) (cs : List Byte) (s : State) : State := { s with mem := s.mem.writeList a cs }

/-- The outcome is a next state with a property. -/
def nextHas (p : State → Bool) : Result → Bool
  | .next t => p t
  | .fault _ => false
  | .refused _ => false

/-- One step gives a next state with a property. -/
def steps (s : State) (p : State → Bool) : Bool := nextHas p (step s)

/-- One instruction, executed, gives a next state with a property. -/
def runs (i : Instr) (s : State) (p : State → Bool) : Bool := nextHas p (exec i s)

/-- A state whose stack holds `n` return addresses. -/
def nested (n : Nat) : State := { State.reset with stack := List.replicate n 0x206 }

/-- A state after a fatal error. -/
def crashed : State := raise (.stackUnderflow 0x200) State.reset

/-- A state waiting for a key into V3. -/
def waiting : State := { State.reset with mode := .waitingForKey 3 }

/-! ## Well-formedness (R97, R109): one ill-formed term for each check -/

theorem test_jp_range : (Instr.jp 0x1000).wellFormed = false ∧ (Instr.jp 0xFFF).wellFormed = true := by decide

theorem test_call_range : (Instr.call 0x1000).wellFormed = false ∧ (Instr.call 0xFFF).wellFormed = true := by decide

theorem test_ldI_range : (Instr.ldI 0xFFFF).wellFormed = false ∧ (Instr.ldI 0xFFF).wellFormed = true := by decide

theorem test_jpV0_range : (Instr.jpV0 0x8000).wellFormed = false ∧ (Instr.jpV0 0xFFF).wellFormed = true := by decide

theorem test_drw_range : (Instr.drw 0 0 16).wellFormed = false ∧ (Instr.drw 0 0 15).wellFormed = true := by decide

/-! ## Decoding: every constructor from a word written out from R100, and the words of 95_test_vectors.md 2.1 -/

theorem test_decode_cls : decode 0x00E0 = .ok .cls := by decide
theorem test_decode_ret : decode 0x00EE = .ok .ret := by decide
theorem test_decode_jp : decode 0x10E0 = .ok (.jp 0x0E0) := by decide
theorem test_decode_call : decode 0x2FFF = .ok (.call 0xFFF) := by decide
theorem test_decode_seImm : decode 0x3A42 = .ok (.seImm 10 0x42) := by decide
theorem test_decode_sneImm : decode 0x4A42 = .ok (.sneImm 10 0x42) := by decide
theorem test_decode_seReg : decode 0x5120 = .ok (.seReg 1 2) := by decide
theorem test_decode_ldImm : decode 0x6F01 = .ok (.ldImm 15 0x01) := by decide
theorem test_decode_addImm : decode 0x7F01 = .ok (.addImm 15 0x01) := by decide
theorem test_decode_ldReg : decode 0x8AB0 = .ok (.ldReg 10 11) := by decide
theorem test_decode_orReg : decode 0x8AB1 = .ok (.orReg 10 11) := by decide
theorem test_decode_andReg : decode 0x8AB2 = .ok (.andReg 10 11) := by decide
theorem test_decode_xorReg : decode 0x8AB3 = .ok (.xorReg 10 11) := by decide
theorem test_decode_addReg : decode 0x8AB4 = .ok (.addReg 10 11) := by decide
theorem test_decode_sub : decode 0x8AB5 = .ok (.sub 10 11) := by decide
theorem test_decode_shr : decode 0x8AB6 = .ok (.shr 10 11) := by decide
theorem test_decode_subn : decode 0x8AB7 = .ok (.subn 10 11) := by decide
theorem test_decode_shl : decode 0x8ABE = .ok (.shl 10 11) := by decide
theorem test_decode_sneReg : decode 0x9AB0 = .ok (.sneReg 10 11) := by decide
theorem test_decode_ldI : decode 0xA123 = .ok (.ldI 0x123) := by decide
theorem test_decode_jpV0 : decode 0xB123 = .ok (.jpV0 0x123) := by decide
theorem test_decode_rnd : decode 0xCF00 = .ok (.rnd 15 0x00) := by decide
theorem test_decode_drw : decode 0xD015 = .ok (.drw 0 1 5) := by decide
theorem test_decode_skp : decode 0xE19E = .ok (.skp 1) := by decide
theorem test_decode_sknp : decode 0xE1A1 = .ok (.sknp 1) := by decide
theorem test_decode_ldVxDt : decode 0xF107 = .ok (.ldVxDt 1) := by decide
theorem test_decode_ldVxK : decode 0xF10A = .ok (.ldVxK 1) := by decide
theorem test_decode_ldDtVx : decode 0xF115 = .ok (.ldDtVx 1) := by decide
theorem test_decode_ldStVx : decode 0xF118 = .ok (.ldStVx 1) := by decide
theorem test_decode_addI : decode 0xF11E = .ok (.addI 1) := by decide
theorem test_decode_ldF : decode 0xF129 = .ok (.ldF 1) := by decide
theorem test_decode_ldB : decode 0xF133 = .ok (.ldB 1) := by decide
theorem test_decode_storeRegs : decode 0xF155 = .ok (.storeRegs 1) := by decide
theorem test_decode_loadRegs : decode 0xF165 = .ok (.loadRegs 1) := by decide

theorem test_unknown_words :
    ([0x0000, 0x00E1, 0x01E0, 0x0123, 0x5121, 0x8AB8, 0x8AB9, 0x8ABA, 0x8ABB, 0x8ABC, 0x8ABD, 0x8ABF, 0x9AB1,
      0xE19F, 0xE100, 0xE1FF, 0xF175, 0xF130, 0xF100, 0xF185, 0xFFFF] : List Word).all
        (fun op => decide (decode op = .error (.unknownOpcode op))) = true := by decide

/-- R110: `ADD V3, V5` is 0x8354, bytes 0x83 0x54. -/
theorem test_encode_addReg : encode (.addReg 3 5) = 0x8354 ∧ encodeBytes (.addReg 3 5) = [0x83, 0x54] := by decide

theorem test_encode_formats : encode (.drw 0 1 5) = 0xD015 ∧ encode (.jpV0 0x123) = 0xB123 ∧
    encode (.seImm 10 0x42) = 0x3A42 ∧ encode (.sknp 1) = 0xE1A1 ∧ encode .ret = 0x00EE := by decide

theorem test_decodeBytes_rest : decodeBytes [0x83, 0x54, 0xAA] = .ok (.addReg 3 5, [0xAA]) := by decide

theorem test_decodeBytes_truncated : decodeBytes [0x83] = .error .truncated := by decide

theorem test_decodeTableWord : decodeTableWord 16 0x8354 = some (.addReg 3 5) ∧ decodeTableWord 16 0x8358 = none := by
  decide

/-! ## Reset, fetch and the step (95_test_vectors.md 2.2 and 2.8) -/

theorem test_reset_font : State.reset.mem.read 0x04F = 0 ∧ State.reset.mem.read 0x050 = 0xF0 ∧
    State.reset.mem.read 0x09C = 0x80 ∧ State.reset.mem.read 0x09F = 0x80 ∧ State.reset.mem.read 0x0A0 = 0 := by decide

theorem test_reset_first_step :
    steps State.reset (fun t => t.mode == .faulted (.unknownOpcode 0x200 0x0000)) = true := by decide

theorem test_fetch_odd : steps (fetching 0x201 0x6005 State.reset) (fun t => t.reg 0 == 5 && t.pc == 0x203) = true := by
  decide

theorem test_fetch_last : steps (fetching 0xFFE 0x6001 State.reset) (fun t => t.reg 0 == 1 && t.pc == 0x1000) = true := by
  decide

theorem test_fetch_window : ([0x000, 0x1FE, 0x1FF, 0xFFF, 0x1000, 0x10FE] : List Word).all (fun pc =>
    steps { State.reset with pc := pc } (fun t => t.mode == .faulted (.fetchError pc))) = true := by decide

theorem test_step_waiting : step waiting = .next waiting := rfl

theorem test_step_ticks : steps { State.reset with dt := 7, schedule := [.tickTimers] }
    (fun t => t.dt == 6 && t.st == 0 && t.pc == 0x200 && t.schedule == []) = true := by decide

theorem test_reset_loads : steps { State.reset with pc := 0, schedule := [.reset [0x00, 0xE0, 0x60, 0x05]] }
    (fun t => t.pc == 0x200 && t.mem.read 0x201 == 0xE0 && t.mem.read 0x203 == 0x05 && t.mem.read 0x204 == 0) = true := by
  decide

theorem test_reset_too_long : (resetWith (List.replicate 3585 0) State.reset).mode = .faulted (.loadError 3585) := by
  rw [resetWith, List.length_replicate, if_pos (by decide)]
  rfl

theorem test_fault_codes : Fault.code (.loadError 0) = 1 ∧ Fault.code (.fetchError 0) = 2 ∧ Fault.code (.stackOverflow 0) = 3 ∧
    Fault.code (.stackUnderflow 0) = 4 ∧ Fault.code (.unknownOpcode 0 0) = 5 ∧ Fault.code (.memoryOutOfBounds 0 0) = 6 ∧
    crashed.faultRecord = some (.stackUnderflow 0x200) ∧ State.reset.faultRecord = none := by decide

/-! ## Control transfer (2.3) -/

theorem test_jp : steps (fetching 0x20A 0x1204 State.reset) (fun t => t.pc == 0x204) = true := by decide

theorem test_call : steps (fetching 0x204 0x2210 State.reset) (fun t => t.stack == [0x206] && t.pc == 0x210) = true := by
  decide

theorem test_call_overflow :
    steps (fetching 0x204 0x2210 (nested 16)) (fun t => t.mode == .faulted (.stackOverflow 0x204)) = true := by
  decide

theorem test_ret : steps (fetching 0x212 0x00EE { State.reset with stack := [0x206, 0x30A] })
    (fun t => t.stack == [0x206] && t.pc == 0x30A) = true := by decide

theorem test_ret_underflow :
    steps (fetching 0x200 0x00EE State.reset) (fun t => t.mode == .faulted (.stackUnderflow 0x200)) = true := by
  decide

theorem test_seImm : steps (fetching 0x300 0x3210 (regs [(2, 0x10)])) (fun t => t.pc == 0x304) = true ∧
    steps (fetching 0x300 0x3210 (regs [(2, 0x11)])) (fun t => t.pc == 0x302) = true := by decide

theorem test_sneImm : steps (fetching 0x300 0x4210 (regs [(2, 0x10)])) (fun t => t.pc == 0x302) = true ∧
    steps (fetching 0x300 0x4210 (regs [(2, 0x11)])) (fun t => t.pc == 0x304) = true := by decide

theorem test_seReg : steps (fetching 0x300 0x5120 (regs [(1, 7), (2, 7)])) (fun t => t.pc == 0x304) = true ∧
    steps (fetching 0x300 0x5120 (regs [(1, 7), (2, 8)])) (fun t => t.pc == 0x302) = true := by decide

theorem test_sneReg : steps (fetching 0x300 0x9120 (regs [(1, 7), (2, 8)])) (fun t => t.pc == 0x304) = true ∧
    steps (fetching 0x300 0x9120 (regs [(1, 7), (2, 7)])) (fun t => t.pc == 0x302) = true := by decide

theorem test_jpV0 : steps (fetching 0x200 0xB2FF (regs [(0, 0x01), (2, 0x40)])) (fun t => t.pc == 0x300) = true := by
  decide

theorem test_jpV0_high : steps (fetching 0x200 0xBFFF (regs [(0, 0xFF)])) (fun t => t.pc == 0x10FE) = true := by
  decide

/-! ## Data and arithmetic (2.4) -/

theorem test_ldImm : steps (fetching 0x200 0x6FAB State.reset) (fun t => t.reg 15 == 0xAB && t.pc == 0x202) = true := by
  decide

theorem test_addImm_wraps :
    steps (fetching 0x200 0x7401 (regs [(4, 0xFF), (15, 0x5A)])) (fun t => t.reg 4 == 0 && t.reg 15 == 0x5A) = true := by
  decide

theorem test_ldReg :
    steps (fetching 0x200 0x8010 (regs [(1, 0x2A), (15, 0x5A)])) (fun t => t.reg 0 == 0x2A && t.reg 15 == 0x5A) = true := by
  decide

theorem test_orReg : steps (fetching 0x200 0x8011 (regs [(0, 0xF0), (1, 0x0F), (15, 0x5A)]))
    (fun t => t.reg 0 == 0xFF && t.reg 15 == 0x5A) = true := by decide

theorem test_andReg : steps (fetching 0x200 0x8012 (regs [(0, 0xF0), (1, 0x3C), (15, 0x5A)]))
    (fun t => t.reg 0 == 0x30 && t.reg 15 == 0x5A) = true := by decide

theorem test_xorReg : steps (fetching 0x200 0x8013 (regs [(0, 0xF0), (1, 0x3C), (15, 0x5A)]))
    (fun t => t.reg 0 == 0xCC && t.reg 15 == 0x5A) = true := by decide

theorem test_addReg_carry :
    steps (fetching 0x200 0x8354 (regs [(3, 0xF0), (5, 0x20)])) (fun t => t.reg 3 == 0x10 && t.reg 15 == 1) = true := by
  decide

theorem test_addReg_flag_operand :
    steps (fetching 0x200 0x80F4 (regs [(0, 0x10), (15, 1)])) (fun t => t.reg 0 == 0x11 && t.reg 15 == 0) = true := by
  decide

theorem test_sub_borrow :
    steps (fetching 0x200 0x8015 (regs [(0, 5), (1, 7)])) (fun t => t.reg 0 == 0xFE && t.reg 15 == 0) = true := by
  decide

theorem test_sub_flag_destination : steps (fetching 0x200 0x8F15 (regs [(15, 5), (1, 3)])) (fun t => t.reg 15 == 1) = true := by
  decide

theorem test_shr : steps (fetching 0x200 0x8236 (regs [(2, 5), (3, 0xFF)]))
    (fun t => t.reg 2 == 2 && t.reg 15 == 1 && t.reg 3 == 0xFF) = true := by decide

theorem test_shr_flag_destination : steps (fetching 0x200 0x8F06 (regs [(15, 2)])) (fun t => t.reg 15 == 0) = true := by
  decide

theorem test_subn :
    steps (fetching 0x200 0x8017 (regs [(0, 5), (1, 7)])) (fun t => t.reg 0 == 2 && t.reg 15 == 1) = true := by
  decide

theorem test_subn_borrow :
    steps (fetching 0x200 0x8017 (regs [(0, 7), (1, 5)])) (fun t => t.reg 0 == 0xFE && t.reg 15 == 0) = true := by
  decide

theorem test_shl : steps (fetching 0x200 0x823E (regs [(2, 0x81), (3, 0xFF)]))
    (fun t => t.reg 2 == 2 && t.reg 15 == 1 && t.reg 3 == 0xFF) = true := by decide

theorem test_shl_flag_destination : steps (fetching 0x200 0x8F0E (regs [(15, 0x80)])) (fun t => t.reg 15 == 1) = true := by
  decide

/-- CXNN under the mask 0 is 0 whatever the free byte is. -/
theorem test_rnd_mask_zero : ∃ t, exec (.rnd 1 0) State.reset = .next t ∧ t.reg 1 = 0 ∧ t.draws = 1 :=
  ⟨_, rfl, BitVec.and_zero, rfl⟩

/-! ## Index register and memory (2.5) -/

theorem test_ldI : steps (fetching 0x200 0xAFFF State.reset) (fun t => t.i == 0x0FFF) = true := by decide

theorem test_addI : steps (fetching 0x200 0xF21E { regs [(2, 1)] with i := 0x0FFF })
    (fun t => t.i == 0x1000 && t.reg 15 == 0) = true := by decide

theorem test_addI_wraps : steps (fetching 0x200 0xF21E { regs [(2, 2)] with i := 0xFFFF }) (fun t => t.i == 0x0001) = true := by
  decide

theorem test_ldF : steps (fetching 0x200 0xF029 (regs [(0, 0x1A)])) (fun t => t.i == 0x0082) = true := by decide

theorem test_ldB : steps (fetching 0x200 0xF033 { regs [(0, 234)] with i := 0x300 })
    (fun t => t.mem.read 0x300 == 2 && t.mem.read 0x301 == 3 && t.mem.read 0x302 == 4 && t.i == 0x300) = true := by
  decide

theorem test_ldB_bounds : steps (fetching 0x200 0xF033 { State.reset with i := 0xFFE })
    (fun t => t.mode == .faulted (.memoryOutOfBounds 0x200 0x1000)) = true := by decide

theorem test_storeRegs : steps (fetching 0x206 0xF155 { regs [(0, 0x6A), (1, 0x55)] with i := 0x208 })
    (fun t => t.mem.read 0x208 == 0x6A && t.mem.read 0x209 == 0x55 && t.mem.read 0x20A == 0 && t.i == 0x208) = true := by
  decide

theorem test_storeRegs_bounds : steps (fetching 0x200 0xFF55 { State.reset with i := 0xFF1 })
    (fun t => t.mode == .faulted (.memoryOutOfBounds 0x200 0x1000)) = true := by decide

theorem test_loadRegs : steps (fetching 0x200 0xF265 (holding 0x300 [2, 3, 4, 9] { State.reset with i := 0x300 }))
    (fun t => t.reg 0 == 2 && t.reg 1 == 3 && t.reg 2 == 4 && t.reg 3 == 0 && t.i == 0x300) = true := by decide

theorem test_loadRegs_bounds : steps (fetching 0x200 0xF165 { State.reset with i := 0xFFF })
    (fun t => t.mode == .faulted (.memoryOutOfBounds 0x200 0x1000)) = true := by decide

/-- Writing back what an unlisted address reads as removes the entry, so equal memories are equal lists. -/
theorem test_memory_canonical : Memory.write (Memory.write [] 0x050 0xAB) 0x050 0xF0 = [] ∧
    Memory.write (Memory.write [] 0x300 1) 0x200 2 = [(0x200, 2), (0x300, 1)] ∧
    Memory.wf [(0x300, 1), (0x200, 2)] = false ∧ Memory.wf [(0x300, 0)] = false ∧ Memory.wf [(0x1000, 1)] = false := by decide

/-! ## Display (2.6) -/

theorem test_cls : steps (fetching 0x200 0x00E0 { regs [(15, 1)] with fb := setPixel clearFrame 31 63 true })
    (fun t => !pixel t.fb 31 63 && t.reg 15 == 1) = true := by decide

/-- The sprite row 0xFF at (60, 0) wraps to columns 0 to 3. -/
theorem test_drw_wraps : steps (fetching 0x200 0xD011 (holding 0x300 [0xFF] { regs [(0, 60)] with i := 0x300 }))
    (fun t => pixel t.fb 0 60 && pixel t.fb 0 63 && pixel t.fb 0 0 && pixel t.fb 0 3 && !pixel t.fb 0 4 &&
      !pixel t.fb 0 59 && t.reg 15 == 0) = true := by decide

/-- The sprite row 0xFF over a lit pixel at (2, 0). -/
theorem test_drw_collision : steps (fetching 0x200 0xD011
      (holding 0x300 [0xFF] { State.reset with i := 0x300, fb := setPixel clearFrame 0 2 true }))
    (fun t => pixel t.fb 0 1 && !pixel t.fb 0 2 && pixel t.fb 0 3 && t.reg 15 == 1) = true := by decide

/-! ## Key pad and timers (2.7) -/

theorem test_skp : steps (fetching 0x300 0xE49E { regs [(4, 0x17)] with keys := State.reset.keys.set 7 true })
    (fun t => t.pc == 0x304) = true ∧
    steps (fetching 0x300 0xE49E (regs [(4, 7)])) (fun t => t.pc == 0x302) = true := by decide

theorem test_sknp : steps (fetching 0x300 0xE4A1 { regs [(4, 7)] with keys := State.reset.keys.set 7 true })
    (fun t => t.pc == 0x302) = true ∧
    steps (fetching 0x300 0xE4A1 (regs [(4, 7)])) (fun t => t.pc == 0x304) = true := by decide

theorem test_ldVxK : steps (fetching 0x200 0xF30A { State.reset with keys := State.reset.keys.set 5 true })
    (fun t => t.mode == .waitingForKey 3 && t.pc == 0x202 && t.reg 3 == 0) = true := by decide

theorem test_ldVxDt : steps (fetching 0x200 0xF507 { State.reset with dt := 0x2C })
    (fun t => t.reg 5 == 0x2C && t.dt == 0x2C) = true := by decide

theorem test_ldDtVx : steps (fetching 0x200 0xF315 (regs [(3, 7)])) (fun t => t.dt == 7 && t.st == 0) = true := by
  decide

theorem test_ldStVx : steps (fetching 0x200 0xF318 (regs [(3, 2)])) (fun t => t.st == 2 && t.tone && t.dt == 0) = true ∧
    steps (fetching 0x200 0xF318 { State.reset with st := 9 }) (fun t => t.st == 0 && !t.tone) = true := by decide

theorem test_keyPress_wait : nextHas (fun t => t.keyDown 7 && t.reg 3 == 7 && t.mode == .running) (perform (.keyPress 7) waiting)
    = true := by decide

theorem test_keyPress_running : nextHas (fun t => t.keyDown 7 && t.v == State.reset.v) (perform (.keyPress 7) State.reset)
    = true := by decide

theorem test_keyRelease_wait : nextHas (fun t => !t.keyDown 5 && t.mode == .waitingForKey 3)
    (perform (.keyRelease 5) { waiting with keys := State.reset.keys.set 5 true }) = true := by decide

theorem test_tick_wait : nextHas (fun t => t.dt == 4 && t.mode == .waitingForKey 3)
    (perform .tickTimers { waiting with dt := 5 }) = true := by decide

/-! ## Witnesses: states and operands that meet the hypotheses of each statement, clause by clause -/

theorem witness_DecodeInvertsEncode : (Instr.jp 0x000).wellFormed = true ∧ (Instr.drw 15 15 15).wellFormed = true := by
  decide

theorem witness_EncodeInvertsDecode : decode 0xDFFF = .ok (.drw 15 15 15) ∧ decode 0x1000 = .ok (.jp 0) := by decide

theorem witness_DecodedWordMatchesItsRow : decode 0x8FFE = .ok (.shl 15 15) ∧ decode 0x00EE = .ok .ret := by decide

theorem witness_UnknownWordsMatchNoRow : decode 0xFFFF = .error (.unknownOpcode 0xFFFF) ∧
    ∀ r ∈ opcodeTable, (0xFFFF : Word) &&& r.mask ≠ r.pattern := by decide

theorem witness_OpcodeRowsAreDisjoint : Instr.row (.addReg 0 0) ∈ opcodeTable ∧
    (0x8354 : Word) &&& (Instr.row (.addReg 0 0)).mask = (Instr.row (.addReg 0 0)).pattern := by decide

theorem witness_StepRunsTheDecodedInstruction :
    let s := fetching 0x200 0x6001 State.reset
    s.mode = .running ∧ 0x200 ≤ s.pc.toNat ∧ s.pc.toNat ≤ 0xFFE ∧ s.schedule = [] ∧
      decode (wordOfBytes (s.mem.read s.pc.toNat) (s.mem.read (s.pc.toNat + 1))) = .ok (.ldImm 0 1) := by decide

theorem witness_StepRunsTheDecodedInstruction_last :
    let s := fetching 0xFFE 0x6001 State.reset
    s.mode = .running ∧ 0x200 ≤ s.pc.toNat ∧ s.pc.toNat ≤ 0xFFE ∧ s.schedule = [] ∧
      decode (wordOfBytes (s.mem.read s.pc.toNat) (s.mem.read (s.pc.toNat + 1))) = .ok (.ldImm 0 1) := by decide

theorem witness_StepRunsTheDecodedInstruction_scheduled :
    let s := { fetching 0x200 0x6001 State.reset with schedule := [.step, .tickTimers] }
    s.mode = .running ∧ 0x200 ≤ s.pc.toNat ∧ s.pc.toNat ≤ 0xFFE ∧ s.schedule = .step :: [.tickTimers] ∧
      decode (wordOfBytes (s.mem.read s.pc.toNat) (s.mem.read (s.pc.toNat + 1))) = .ok (.ldImm 0 1) := by decide

theorem witness_StepPerformsTheNextTransaction :
    ({ State.reset with schedule := [.tickTimers] } : State).schedule = .tickTimers :: [] ∧ State.reset.schedule = [] :=
  ⟨rfl, rfl⟩

theorem witness_StepOutsideRunningChangesNothing :
    waiting.mode = .waitingForKey 3 ∧ crashed.mode = .faulted (.stackUnderflow 0x200) := ⟨rfl, rfl⟩

theorem witness_FetchOutsideTheWindowRaisesFetchError :
    let low := { State.reset with pc := 0x1FF }
    let high := { State.reset with pc := 0xFFF }
    low.mode = .running ∧ low.pc.toNat < 0x200 ∧ high.mode = .running ∧ 0xFFE < high.pc.toNat :=
  ⟨rfl, by decide, rfl, by decide⟩

theorem witness_UnknownWordRaisesUnknownOpcode :
    let s := State.reset
    s.mode = .running ∧ 0x200 ≤ s.pc.toNat ∧ s.pc.toNat ≤ 0xFFE ∧
      (0 : Word) = wordOfBytes (s.mem.read s.pc.toNat) (s.mem.read (s.pc.toNat + 1)) ∧
      decode 0 = .error (.unknownOpcode 0) := by decide

theorem witness_UnknownWordRaisesUnknownOpcode_last :
    let s := { State.reset with pc := 0xFFE }
    s.mode = .running ∧ 0x200 ≤ s.pc.toNat ∧ s.pc.toNat ≤ 0xFFE ∧
      (0 : Word) = wordOfBytes (s.mem.read s.pc.toNat) (s.mem.read (s.pc.toNat + 1)) ∧
      decode 0 = .error (.unknownOpcode 0) := by decide

theorem witness_StepRaisesOnlyTheErrorOfItsPhase : State.reset.mode = .running ∧
    ∃ t, perform .step State.reset = .next t ∧ t.mode = .faulted (.unknownOpcode 0x200 0) :=
  ⟨rfl, _, rfl, by decide⟩

theorem witness_FaultedIsLeftOnlyByReset : crashed.mode = .faulted (.stackUnderflow 0x200) ∧
    ∀ program, Transaction.tickTimers ≠ .reset program := ⟨rfl, by simp⟩

theorem witness_ParkedStateIsFixedByStep : (fetching 0x20A 0x120A State.reset).parked = true ∧
    (fetching 0xFFE 0x1FFE State.reset).parked = true := by decide

theorem inv_reset : State.reset.Inv := fun _ => ⟨by decide, by decide, by simp [State.reset], rfl⟩

theorem witness_StepKeepsTheInvariant : State.reset.Inv ∧ ∃ t, step State.reset = .next t := ⟨inv_reset, _, rfl⟩

theorem witness_StepKeepsTheInvariant_tick : State.Inv { State.reset with schedule := [.tickTimers] } ∧
    ∃ t, step { State.reset with schedule := [.tickTimers] } = .next t := ⟨inv_reset, _, rfl⟩

theorem witness_NoInstructionWritesTheKeyPad : Completes (.skp 0) State.reset State.reset := ⟨rfl, rfl⟩

theorem witness_OnlyClearAndDrawWriteTheFramebuffer :
    Completes (.ldI 5) State.reset { State.reset with i := 5 } ∧ Instr.ldI 5 ≠ .cls ∧ ∀ x y n, Instr.ldI 5 ≠ .drw x y n :=
  ⟨⟨rfl, rfl⟩, by simp, by simp⟩

theorem witness_OnlyStoresWriteMemory :
    Completes (.ldI 5) State.reset { State.reset with i := 5 } ∧ (∀ x, Instr.ldI 5 ≠ .ldB x) ∧
      ∀ x, Instr.ldI 5 ≠ .storeRegs x := ⟨⟨rfl, rfl⟩, by simp, by simp⟩

theorem witness_OnlyDestinationsAndTheFlagAreWritten :
    (∃ t, Completes (.ldImm 0 5) State.reset t) ∧ 15 ∉ destinations (.ldImm 0 5) ∧
      ((15 : Reg) = 15 → writesFlag (.ldImm 0 5) = false) ∧
    (∃ t, Completes (.addReg 0 1) State.reset t) ∧ 14 ∉ destinations (.addReg 0 1) ∧
      ((14 : Reg) = 15 → writesFlag (.addReg 0 1) = false) :=
  ⟨⟨_, rfl, rfl⟩, by decide, by decide, ⟨_, rfl, rfl⟩, by decide, by decide⟩

theorem witness_IndexLeavesMemoryOnlyThroughAdd :
    let s := { regs [(2, 1)] with i := 0x0FFF }
    (Instr.addI 2).wellFormed = true ∧ s.i.toNat ≤ 0xFFF ∧
      ∃ t, Completes (.addI 2) s t ∧ 0xFFF < t.i.toNat :=
  ⟨rfl, by decide, _, ⟨rfl, rfl⟩, by decide⟩

theorem witness_TimersStackAndModeHaveTheirOwnWriters :
    Completes (.ldI 5) State.reset { State.reset with i := 5 } ∧ (∀ x, Instr.ldI 5 ≠ .ldDtVx x) ∧
      (∀ x, Instr.ldI 5 ≠ .ldStVx x) ∧ (∀ nnn, Instr.ldI 5 ≠ .call nnn) ∧ Instr.ldI 5 ≠ .ret ∧
      (∀ x, Instr.ldI 5 ≠ .ldVxK x) := ⟨⟨rfl, rfl⟩, by simp, by simp, by simp, by simp, by simp⟩

theorem witness_ReturnPopsIntoPc : (nested 1).stack = [] ++ [0x206] ∧
    (nested 16).stack = List.replicate 15 0x206 ++ [0x206] := by decide

theorem witness_CallPushesTheReturnAddress : (nested 0).stack.length < 16 ∧ (nested 15).stack.length < 16 := by decide

theorem witness_FullAndEmptyStackRaise : 16 ≤ (nested 16).stack.length ∧ (nested 0).stack = [] := by decide

theorem witness_RegisterSkipsCompareWithVY : (15 : Reg) = 15 := rfl

theorem witness_OffsetJumpAddsV0 : (0x000 : Word).toNat ≤ 0xFFF ∧ (0xFFF : Word).toNat ≤ 0xFFF := by decide

theorem witness_AddWritesSumThenCarry : (14 : Reg) ≠ 15 := by decide

theorem witness_SubtractWritesDifferenceThenNoBorrow : (0 : Reg) ≠ 15 := by decide

theorem witness_ReverseSubtractWritesDifferenceThenNoBorrow : (14 : Reg) ≠ 15 := by decide

theorem witness_ShiftsWriteResultThenBitOut : (0 : Reg) ≠ 15 ∧ (14 : Reg) ≠ 15 := by decide

theorem witness_RandomWritesAFreeByteUnderTheMask :
    (0x0F : Byte).getLsbD 4 = false ∧ (0x0F : Byte).getLsbD 7 = false := by decide

theorem witness_DecimalDigitsAreStoredAtIndex : indexAddr { State.reset with i := 0xFFD } + 2 ≤ 0xFFF ∧
    indexAddr State.reset + 2 ≤ 0xFFF := by decide

theorem witness_RegistersAreStoredFromIndex : indexAddr { State.reset with i := 0xFF0 } + (15 : Reg).val ≤ 0xFFF ∧
    indexAddr { State.reset with i := 0xFFF } + (0 : Reg).val ≤ 0xFFF ∧ (15 : Reg) ≤ 15 := by decide

theorem witness_RegistersAreLoadedFromIndex : indexAddr { State.reset with i := 0xFF0 } + (15 : Reg).val ≤ 0xFFF ∧
    indexAddr { State.reset with i := 0xFFF } + (0 : Reg).val ≤ 0xFFF ∧ (0 : Reg) ≤ 0 := by decide

theorem witness_AccessPastMemoryRaisesOutOfBounds : 0xFFF < indexAddr { State.reset with i := 0xFFE } + 2 ∧
    0xFFF < indexAddr { State.reset with i := 0xFF1 } + (15 : Reg).val ∧
    0xFFF < indexAddr { State.reset with i := 0x1000 } + (0 : Reg).val ∧
    0xFFF < indexAddr { State.reset with i := 0x1000 } + 0 ∧ 0xFFF < indexAddr { State.reset with i := 0xFF2 } + 14 := by
  decide

theorem witness_LoadReturnsWhatStoreStored :
    let s := { regs [(0, 1), (15, 16)] with i := 0xFF0 }
    s.mode.isFaulted = false ∧ ∃ t, Completes (.storeRegs 15) s t ∧ ∃ u : State, u.mem = t.mem ∧ u.i = s.i :=
  ⟨rfl, _, ⟨rfl, rfl⟩, { State.reset with mem := _, i := 0xFF0 }, rfl, rfl⟩

/-- A state with a one-row sprite at I, its first pixel lit and on, its second lit and off. -/
def sprite : State := holding 0x300 [0xC0] { State.reset with i := 0x300, fb := setPixel clearFrame 0 0 true }

theorem witness_DrawFlipsTheLitPixels : 1 < 16 ∧ indexAddr sprite + 1 ≤ 0x1000 ∧
    SpriteLit sprite 0 1 1 0 0 ∧ pixel sprite.fb 0 0 = true ∧ ¬ SpriteLit sprite 0 1 1 1 0 := by
  refine ⟨by decide, by decide, ⟨0, 0, by decide, by decide, by decide, by decide, by decide⟩,
    by decide, ?_⟩
  rintro ⟨r, c, hr, -, -, -, h⟩
  have h0 : (sprite.reg 1).toNat = 0 := by decide
  rw [h0] at h
  simp at h
  omega

theorem witness_DrawFlipsTheLitPixels_edges : 0 < 16 ∧ 15 < 16 ∧ indexAddr { State.reset with i := 0xFF1 } + 15 ≤ 0x1000 ∧
    (∀ py px, SpriteLit { State.reset with i := 0xFFFF } 0 1 0 py px →
      pixel ({ State.reset with i := 0xFFFF } : State).fb py px = false) := by
  refine ⟨by decide, by decide, by decide, ?_⟩
  rintro py px ⟨r, c, hr, -⟩
  omega

theorem witness_DrawingTwiceRestoresTheFramebuffer : 1 < 16 ∧ (0 : Reg) ≠ 15 ∧ (1 : Reg) ≠ 15 ∧
    indexAddr sprite + 1 ≤ 0x1000 ∧ SpriteLit sprite 0 1 1 0 1 ∧ pixel sprite.fb 0 1 = false ∧
    (∀ py px, SpriteLit { sprite with fb := clearFrame } 0 1 1 py px → pixel clearFrame py px = false) := by
  refine ⟨by decide, by decide, by decide, by decide,
    ⟨0, 1, by decide, by decide, by decide, by decide, by decide⟩, by decide, ?_⟩
  intro py px _
  simp [pixel, clearFrame]

theorem witness_TickCountsBothTimersDownToZero :
    ({ State.reset with dt := 1, st := 0xFF } : State).mode.isFaulted = false ∧ waiting.mode.isFaulted = false ∧
      crashed.mode.isFaulted = true := ⟨rfl, rfl, rfl⟩

theorem witness_KeyPressSetsTheBitAndEndsAWait : State.reset.mode = .running ∧ waiting.mode = .waitingForKey 3 ∧
    crashed.mode.isFaulted = true := ⟨rfl, rfl, rfl⟩

theorem witness_KeyReleaseClearsOnlyTheBit : State.reset.mode.isFaulted = false ∧ waiting.mode.isFaulted = false ∧
    crashed.mode.isFaulted = true := ⟨rfl, rfl, rfl⟩

theorem witness_ResetLoadsTheProgram : (List.replicate 3584 (0x12 : Byte)).length ≤ 3584 ∧ ([] : List Byte).length ≤ 3584 :=
  ⟨Nat.le_of_eq List.length_replicate, Nat.zero_le _⟩

theorem witness_ResetRefusesALongerProgram : 3584 < (List.replicate 3585 (0 : Byte)).length := by
  rw [List.length_replicate]
  decide

theorem witness_GlyphIsDrawnFromResetMemory :
    (regs [(1, 0x1A)]).mem = [] ∧ (regs [(1, 0x1A)]).fb = clearFrame ∧ (regs [(1, 0x1A)]).reg 0 = 0 ∧
      (regs [(1, 0x1A)]).reg 1 = 0x1A := ⟨rfl, rfl, by decide, by decide⟩

end Sys2Proof.Tests
end

