-- ==== Sys2Proof/Proofs/ControlFlow.lean ====
section
/-! PROOFS. The conditional skips of 41_control_flow.md. -/

namespace Sys2Proof.Machine

/-! ## Rules for the skips -/

@[simp] theorem skipIf_pc (c : Bool) (s : State) : (skipIf c s).pc = if c then s.pc + 2 else s.pc := by
  rw [skipIf_eq, jump_pc]

theorem exec_seImm (x : Reg) (nn : Byte) (s : State) :
    exec (.seImm x nn) s = .next (skipIf (decide (s.reg x = nn)) s) := rfl

theorem exec_sneImm (x : Reg) (nn : Byte) (s : State) :
    exec (.sneImm x nn) s = .next (skipIf (decide (s.reg x ≠ nn)) s) := rfl

/-! ## Settled statements -/

/-- Settles O27: each instruction is a `skipIf` on its comparison, whose PC and frame are known. -/
theorem immediateSkipsCompareWithNN : Obligations.ImmediateSkipsCompareWithNN := by
  intro x nn s
  constructor
  · exact ⟨_, exec_seImm x nn s, by simp only [skipIf_pc, decide_eq_true_eq], onlyChanges_skipIf _ s⟩
  · exact ⟨_, exec_sneImm x nn s, by simp only [skipIf_pc, decide_eq_true_eq, ne_eq, ite_not],
      onlyChanges_skipIf _ s⟩

end Sys2Proof.Machine
end

