-- ==== Sys2Proof/Proofs/DataAlu.lean ====
section
/-! PROOFS. The loads and additions of an immediate of 42_data_and_alu.md. -/

namespace Sys2Proof.Machine

/-! ## Rules for the instructions with an immediate -/

theorem exec_ldImm (x : Reg) (nn : Byte) (s : State) : exec (.ldImm x nn) s = .next (s.setReg x nn) := rfl

theorem exec_addImm (x : Reg) (nn : Byte) (s : State) :
    exec (.addImm x nn) s = .next (s.setReg x (addWrap (s.reg x) nn)) := rfl

/-! ## Settled statements -/

/-- Settles O31: the one write is of the wrapped sum to VX, so with X = F too VF receives the sum. -/
theorem addImmediateWrapsWithoutFlag : Obligations.AddImmediateWrapsWithoutFlag := by
  intro x nn s
  refine ⟨_, exec_addImm x nn s, ?_, onlyChanges_setReg s x _⟩
  rw [reg_setReg_same, addWrap_toNat]

/-- Settles O30: the one write is of NN to VX. -/
theorem loadImmediateWritesNN : Obligations.LoadImmediateWritesNN := fun x nn s =>
  ⟨_, exec_ldImm x nn s, reg_setReg_same s x nn, onlyChanges_setReg s x nn⟩

end Sys2Proof.Machine
end

