-- ==== Sys2Proof/Proofs/IndexMemory.lean ====
section
/-! PROOFS. The load of the index register of 43_index_and_memory.md. -/

namespace Sys2Proof.Machine

/-! ## Rules for the index instructions -/

theorem exec_ldI (nnn : Word) (s : State) : exec (.ldI nnn) s = .next { s with i := nnn } := rfl

/-! ## Settled statements -/

/-- Settles O38: the one write is of NNN to I, with no range check on NNN. -/
theorem loadIndexWritesNNN : Obligations.LoadIndexWritesNNN := fun nnn s =>
  ⟨_, exec_ldI nnn s, rfl, onlyChanges_index s nnn⟩

end Sys2Proof.Machine
end

