-- ==== Sys2Proof/Proofs/Display.lean ====
section
/-! PROOFS. The clear of the screen of 44_display.md. -/

namespace Sys2Proof.Machine

/-! ## Rules for the framebuffer -/

theorem exec_cls (s : State) : exec .cls s = .next { s with fb := clearFrame } := rfl

theorem onlyChanges_fb (s : State) (fb : Config.Frame) :
    OnlyChanges (fun p => ∃ py px, p = .pixel py px) s { s with fb := fb } := by
  intro p hp
  cases p with
  | pixel py px => exact absurd ⟨py, px, rfl⟩ hp
  | _ => rfl

/-! ## Settled statements -/

/-- Settles O46: the one write is of the clear frame to the framebuffer. -/
theorem clearTurnsEveryPixelOff : Obligations.ClearTurnsEveryPixelOff := fun s =>
  ⟨_, exec_cls s, pixel_clearFrame, onlyChanges_fb s clearFrame⟩

end Sys2Proof.Machine
end

