-- ==== Sys2Proof/Proofs/Exceptions.lean ====
section
/-! PROOFS. The timer tick and the key release of 60_exceptions.md. -/

namespace Sys2Proof.Machine

/-! ## Rules for the timers and the key pad -/

theorem tick_toNat (t : Byte) : (tick t).toNat = t.toNat - 1 := by
  unfold tick
  split
  · have := t.isLt
    rw [BitVec.toNat_ofNat, Nat.mod_eq_of_lt (by omega)]
  · omega

theorem onlyChanges_timers (s : State) (d b : Byte) :
    OnlyChanges (fun p => p = .delay ∨ p = .sound) s { s with dt := d, st := b } := by
  intro p hp
  cases p with
  | delay => exact absurd (.inl rfl) hp
  | sound => exact absurd (.inr rfl) hp
  | _ => rfl

theorem keyDown_set_same (s : State) (k : Key) (c : Bool) :
    ({ s with keys := s.keys.set k c } : State).keyDown k = c := by
  rw [keyDown_set, if_pos rfl]

/-! ## Rules for the transactions: `Faulted` mode is the only one that matters -/

theorem perform_tickTimers (s : State) : perform .tickTimers s =
    .next (if s.mode.isFaulted = true then s else { s with dt := tick s.dt, st := tick s.st }) := by
  simp only [perform, tickTimers]
  cases s.mode with
  | running => rfl
  | waitingForKey x => rfl
  | faulted f => rfl

theorem perform_keyRelease (k : Key) (s : State) : perform (.keyRelease k) s =
    .next (if s.mode.isFaulted = true then s else { s with keys := s.keys.set k false }) := by
  simp only [perform, keyRelease]
  cases s.mode with
  | running => rfl
  | waitingForKey x => rfl
  | faulted f => rfl

/-! ## Settled statements -/

/-- Settles O54: outside `Faulted` mode the two writes are of each timer's own `tick`, which is truncated subtraction
of 1. -/
theorem tickCountsBothTimersDownToZero : Obligations.TickCountsBothTimersDownToZero := by
  intro s
  constructor
  · intro h
    refine ⟨{ s with dt := tick s.dt, st := tick s.st }, ?_, tick_toNat s.dt, tick_toNat s.st,
      onlyChanges_timers s _ _⟩
    rw [perform_tickTimers, if_neg (by simp [h])]
  · intro h
    rw [perform_tickTimers, if_pos h]

/-- Settles O56: outside `Faulted` mode the one write is of the bit of `k`, so MODE is as before. -/
theorem keyReleaseClearsOnlyTheBit : Obligations.KeyReleaseClearsOnlyTheBit := by
  intro k s
  constructor
  · intro h
    refine ⟨{ s with keys := s.keys.set k false }, ?_, keyDown_set_same s k false, onlyChanges_keys s k false⟩
    rw [perform_keyRelease, if_neg (by simp [h])]
  · intro h
    rw [perform_keyRelease, if_pos h]

end Sys2Proof.Machine
end

/-! PROOFS. The encoding (30_encoding.md): the round trip of encoder and decoder, and the opcode map. -/

namespace Sys2Proof

/-! ## The fields of a word, and the operands placed in a word, as numbers (R92, R93) -/

theorem fieldF_toNat (op : Word) : (fieldF op).toNat = op.toNat / 4096 := by
  have := op.isLt
  simp only [fieldF, BitVec.extractLsb'_toNat, Nat.shiftRight_eq_div_pow]
  omega

theorem fieldX_val (op : Word) : (fieldX op).val = op.toNat / 256 % 16 := by
  simp [fieldX, Nat.shiftRight_eq_div_pow]

theorem fieldY_val (op : Word) : (fieldY op).val = op.toNat / 16 % 16 := by
  simp [fieldY, Nat.shiftRight_eq_div_pow]

theorem fieldN_toNat (op : Word) : (fieldN op).toNat = op.toNat % 16 := by
  simp [fieldN, BitVec.extractLsb'_toNat]

theorem fieldNN_toNat (op : Word) : (fieldNN op).toNat = op.toNat % 256 := by
  simp [fieldNN, BitVec.extractLsb'_toNat]

theorem fieldNNN_toNat (op : Word) : (fieldNNN op).toNat = op.toNat % 4096 := by
  simp only [fieldNNN, BitVec.toNat_setWidth, BitVec.extractLsb'_toNat, Nat.shiftRight_zero]
  omega

theorem placeX_toNat (x : Reg) : (placeX x).toNat = 256 * x.val := by revert x; decide

theorem placeY_toNat (y : Reg) : (placeY y).toNat = 16 * y.val := by revert y; decide

theorem placeNN_toNat (nn : Byte) : (placeNN nn).toNat = nn.toNat := by
  rw [placeNN, BitVec.toNat_setWidth, Nat.mod_eq_of_lt (by omega)]

/-- An operand field ORed into bits `k` to `k + w - 1` that are 0 is added. -/
theorem toNat_or_field (k w v : Nat) {a b : Word} (hb : b.toNat = 2 ^ k * v) (hv : v < 2 ^ w)
    (ha : a.toNat / 2 ^ k % 2 ^ w = 0) : (a ||| b).toNat = a.toNat + b.toNat := by
  have hsplit : a.toNat = 2 ^ (k + w) * (a.toNat / 2 ^ k / 2 ^ w) + a.toNat % 2 ^ k := by
    have h1 := Nat.div_add_mod a.toNat (2 ^ k)
    have h2 := Nat.div_add_mod (a.toNat / 2 ^ k) (2 ^ w)
    rw [ha, Nat.add_zero] at h2
    rw [pow_add, Nat.mul_assoc, h2, h1]
  have hlow : a.toNat % 2 ^ k < 2 ^ k := Nat.mod_lt _ (Nat.two_pow_pos k)
  have hfield : 2 ^ k * v + a.toNat % 2 ^ k < 2 ^ (k + w) := by
    calc 2 ^ k * v + a.toNat % 2 ^ k < 2 ^ k * (v + 1) := by rw [Nat.mul_add_one]; omega
      _ ≤ 2 ^ (k + w) := by rw [pow_add]; exact Nat.mul_le_mul_left _ hv
  have hwide : a.toNat % 2 ^ k < 2 ^ (k + w) := by omega
  rw [BitVec.toNat_or, hb, hsplit, Nat.two_pow_add_eq_or_of_lt hwide, Nat.lor_assoc,
    Nat.lor_comm (a.toNat % 2 ^ k), ← Nat.two_pow_add_eq_or_of_lt hlow,
    ← Nat.two_pow_add_eq_or_of_lt hfield, ← Nat.two_pow_add_eq_or_of_lt hwide]
  omega

/-! ## The encoded word of each format is a sum: the pattern and its operands (R93, R110) -/

section Formats
variable (p : Word) (x y : Reg) (nn : Byte) {nnn : Word} {n : Nat}

theorem toNat_or_placeX {a : Word} (ha : a.toNat / 256 % 16 = 0) :
    (a ||| placeX x).toNat = a.toNat + 256 * x.val := by
  rw [toNat_or_field 8 4 x.val (placeX_toNat x) x.isLt ha, placeX_toNat]

theorem toNat_or_placeY {a : Word} (ha : a.toNat / 16 % 16 = 0) :
    (a ||| placeY y).toNat = a.toNat + 16 * y.val := by
  rw [toNat_or_field 4 4 y.val (placeY_toNat y) y.isLt ha, placeY_toNat]

theorem toNat_or_low (w : Nat) {a b : Word} (hb : b.toNat < 2 ^ w) (ha : a.toNat % 2 ^ w = 0) :
    (a ||| b).toNat = a.toNat + b.toNat :=
  toNat_or_field 0 w b.toNat (by simp) hb (by simpa using ha)

theorem toNat_xnn (hp : p.toNat % 4096 = 0) :
    (p ||| placeX x ||| placeNN nn).toNat = p.toNat + 256 * x.val + nn.toNat := by
  have hx := toNat_or_placeX x (a := p) (by omega)
  have hnn := placeNN_toNat nn
  rw [toNat_or_low 8 (by omega) (by omega), hx, hnn]

theorem toNat_nnn (h : nnn.toNat < 4096) (hp : p.toNat % 4096 = 0) : (p ||| nnn).toNat = p.toNat + nnn.toNat :=
  toNat_or_low 12 h hp

theorem toNat_x (hp : p.toNat % 4096 < 256) : (p ||| placeX x).toNat = p.toNat + 256 * x.val :=
  toNat_or_placeX x (by omega)

theorem toNat_xy (hp : p.toNat % 4096 < 16) :
    (p ||| placeX x ||| placeY y).toNat = p.toNat + 256 * x.val + 16 * y.val := by
  have hx := toNat_x p x (by omega)
  rw [toNat_or_placeY y (by omega), hx]

theorem toNat_xyn (h : n < 16) (hp : p.toNat % 4096 = 0) :
    (p ||| placeX x ||| placeY y ||| BitVec.ofNat 16 n).toNat = p.toNat + 256 * x.val + 16 * y.val + n := by
  have hxy := toNat_xy p x y (by omega)
  have hn : (BitVec.ofNat 16 n).toNat = n := Nat.mod_eq_of_lt (by omega)
  rw [toNat_or_low 4 (by omega) (by omega), hxy, hn]

/-! ## The fields of an encoded word are the operands (R93, R110) -/

theorem fields_xnn (hp : p.toNat % 4096 = 0) :
    fieldF (p ||| placeX x ||| placeNN nn) = fieldF p ∧ fieldX (p ||| placeX x ||| placeNN nn) = x ∧
      fieldNN (p ||| placeX x ||| placeNN nn) = nn := by
  have h := toNat_xnn p x nn hp
  refine ⟨BitVec.eq_of_toNat_eq ?_, Fin.ext ?_, BitVec.eq_of_toNat_eq ?_⟩
  · rw [fieldF_toNat, fieldF_toNat]; omega
  · rw [fieldX_val]; omega
  · rw [fieldNN_toNat]; omega

theorem fields_nnn (h : addrInRange nnn = true) (hp : p.toNat % 4096 = 0) :
    fieldF (p ||| nnn) = fieldF p ∧ fieldNNN (p ||| nnn) = nnn := by
  replace h : nnn.toNat < 4096 := of_decide_eq_true h
  have hsum := toNat_nnn p h hp
  refine ⟨BitVec.eq_of_toNat_eq ?_, BitVec.eq_of_toNat_eq ?_⟩
  · rw [fieldF_toNat, fieldF_toNat]; omega
  · rw [fieldNNN_toNat]; omega

theorem fields_xy (hp : p.toNat % 4096 < 16) :
    fieldF (p ||| placeX x ||| placeY y) = fieldF p ∧ fieldX (p ||| placeX x ||| placeY y) = x ∧
      fieldY (p ||| placeX x ||| placeY y) = y ∧ fieldN (p ||| placeX x ||| placeY y) = fieldN p := by
  have h := toNat_xy p x y hp
  refine ⟨BitVec.eq_of_toNat_eq ?_, Fin.ext ?_, Fin.ext ?_, BitVec.eq_of_toNat_eq ?_⟩
  · rw [fieldF_toNat, fieldF_toNat]; omega
  · rw [fieldX_val]; omega
  · rw [fieldY_val]; omega
  · rw [fieldN_toNat, fieldN_toNat]; omega

theorem fields_xyn (h : rowsInRange n = true) (hp : p.toNat % 4096 = 0) :
    fieldF (p ||| placeX x ||| placeY y ||| BitVec.ofNat 16 n) = fieldF p ∧
      fieldX (p ||| placeX x ||| placeY y ||| BitVec.ofNat 16 n) = x ∧
      fieldY (p ||| placeX x ||| placeY y ||| BitVec.ofNat 16 n) = y ∧
      (fieldN (p ||| placeX x ||| placeY y ||| BitVec.ofNat 16 n)).toNat = n := by
  replace h : n < 16 := of_decide_eq_true h
  have hsum := toNat_xyn p x y h hp
  refine ⟨BitVec.eq_of_toNat_eq ?_, Fin.ext ?_, Fin.ext ?_, ?_⟩
  · rw [fieldF_toNat, fieldF_toNat]; omega
  · rw [fieldX_val]; omega
  · rw [fieldY_val]; omega
  · rw [fieldN_toNat]; omega

theorem fields_x (hp : p.toNat % 4096 < 256) :
    fieldF (p ||| placeX x) = fieldF p ∧ fieldX (p ||| placeX x) = x ∧ fieldNN (p ||| placeX x) = fieldNN p := by
  have h := toNat_x p x hp
  refine ⟨BitVec.eq_of_toNat_eq ?_, Fin.ext ?_, BitVec.eq_of_toNat_eq ?_⟩
  · rw [fieldF_toNat, fieldF_toNat]; omega
  · rw [fieldX_val]; omega
  · rw [fieldNN_toNat, fieldNN_toNat]; omega

/-! ## A word is its pattern with its own fields (R92, R93) -/

theorem assemble_xnn {op : Word} (hp : p.toNat = 4096 * (fieldF op).toNat) :
    p ||| placeX (fieldX op) ||| placeNN (fieldNN op) = op := by
  apply BitVec.eq_of_toNat_eq
  rw [fieldF_toNat] at hp
  rw [toNat_xnn p _ _ (by omega), fieldX_val, fieldNN_toNat]
  omega

theorem assemble_nnn {op : Word} (hp : p.toNat = 4096 * (fieldF op).toNat) : p ||| fieldNNN op = op := by
  apply BitVec.eq_of_toNat_eq
  rw [fieldF_toNat] at hp
  have hn := fieldNNN_toNat op
  rw [toNat_nnn p (by omega) (by omega)]
  omega

theorem assemble_xy {op : Word} (hp : p.toNat = 4096 * (fieldF op).toNat + (fieldN op).toNat) :
    p ||| placeX (fieldX op) ||| placeY (fieldY op) = op := by
  apply BitVec.eq_of_toNat_eq
  rw [fieldF_toNat, fieldN_toNat] at hp
  rw [toNat_xy p _ _ (by omega), fieldX_val, fieldY_val]
  omega

theorem assemble_xyn {op : Word} (hp : p.toNat = 4096 * (fieldF op).toNat) :
    p ||| placeX (fieldX op) ||| placeY (fieldY op) ||| BitVec.ofNat 16 (fieldN op).toNat = op := by
  apply BitVec.eq_of_toNat_eq
  rw [fieldF_toNat] at hp
  rw [toNat_xyn p _ _ (fieldN op).isLt (by omega), fieldX_val, fieldY_val, fieldN_toNat]
  omega

theorem assemble_x {op : Word} (hp : p.toNat = 4096 * (fieldF op).toNat + (fieldNN op).toNat) :
    p ||| placeX (fieldX op) = op := by
  apply BitVec.eq_of_toNat_eq
  rw [fieldF_toNat, fieldNN_toNat] at hp
  rw [toNat_x p _ (by omega), fieldX_val]
  omega

/-! ## Decoding a word assembled from a pattern: the decoder need only look at the pattern's fields (R102, R110) -/

/-- Format NNN. -/
theorem decode_nnn (mk : Word → Instr) (h : addrInRange nnn = true) (hp : p.toNat % 4096 = 0)
    (hdec : ∀ op, fieldF op = fieldF p → decode op = .ok (mk (fieldNNN op))) :
    decode (p ||| nnn) = .ok (mk nnn) := by
  obtain ⟨hF, hNNN⟩ := fields_nnn p h hp
  rw [hdec _ hF, hNNN]

/-- Format XNN. -/
theorem decode_xnn (mk : Reg → Byte → Instr) (hp : p.toNat % 4096 = 0)
    (hdec : ∀ op, fieldF op = fieldF p → decode op = .ok (mk (fieldX op) (fieldNN op))) :
    decode (p ||| placeX x ||| placeNN nn) = .ok (mk x nn) := by
  obtain ⟨hF, hX, hNN⟩ := fields_xnn p x nn hp
  rw [hdec _ hF, hX, hNN]

/-- Format XY. -/
theorem decode_xy (mk : Reg → Reg → Instr) (hp : p.toNat % 4096 < 16)
    (hdec : ∀ op, fieldF op = fieldF p → fieldN op = fieldN p → decode op = .ok (mk (fieldX op) (fieldY op))) :
    decode (p ||| placeX x ||| placeY y) = .ok (mk x y) := by
  obtain ⟨hF, hX, hY, hN⟩ := fields_xy p x y hp
  rw [hdec _ hF hN, hX, hY]

/-- Format XYN. -/
theorem decode_xyn (mk : Reg → Reg → Nat → Instr) (h : rowsInRange n = true) (hp : p.toNat % 4096 = 0)
    (hdec : ∀ op, fieldF op = fieldF p → decode op = .ok (mk (fieldX op) (fieldY op) (fieldN op).toNat)) :
    decode (p ||| placeX x ||| placeY y ||| BitVec.ofNat 16 n) = .ok (mk x y n) := by
  obtain ⟨hF, hX, hY, hN⟩ := fields_xyn p x y h hp
  rw [hdec _ hF, hX, hY, hN]

/-- Format X. -/
theorem decode_x (mk : Reg → Instr) (hp : p.toNat % 4096 < 256)
    (hdec : ∀ op, fieldF op = fieldF p → fieldNN op = fieldNN p → decode op = .ok (mk (fieldX op))) :
    decode (p ||| placeX x) = .ok (mk x) := by
  obtain ⟨hF, hX, hNN⟩ := fields_x p x hp
  rw [hdec _ hF hNN, hX]

end Formats

/-! ## Settled: decoding an encoding -/

/-- Settles O1: in each of the five formats the decoder looks only at the fields of the pattern, and the operand
fields of the encoded word are the operands. -/
theorem decodeInvertsEncode : Obligations.DecodeInvertsEncode := by
  intro i hi
  cases i
  case cls | ret => rfl
  case jp nnn | call nnn | ldI nnn | jpV0 nnn =>
    exact decode_nnn _ _ hi rfl fun op hF => by rw [decode, hF]; rfl
  case seImm x nn | sneImm x nn | ldImm x nn | addImm x nn | rnd x nn =>
    exact decode_xnn _ x nn _ rfl fun op hF => by rw [decode, hF]; rfl
  case seReg x y | sneReg x y =>
    exact decode_xy _ x y _ (by decide) fun op hF hN => by rw [decode, hF, hN]; rfl
  case ldReg x y | orReg x y | andReg x y | xorReg x y | addReg x y | sub x y | shr x y | subn x y | shl x y =>
    exact decode_xy _ x y _ (by decide) fun op hF hN => by rw [decode, hF, decode8, hN]; rfl
  case drw x y n => exact decode_xyn _ x y _ hi rfl fun op hF => by rw [decode, hF]; rfl
  case skp x | sknp x =>
    exact decode_x _ x _ (by decide) fun op hF hNN => by rw [decode, hF, decodeE, hNN]; rfl
  case ldVxDt x | ldVxK x | ldDtVx x | ldStVx x | addI x | ldF x | ldB x | storeRegs x | loadRegs x =>
    exact decode_x _ x _ (by decide) fun op hF hNN => by rw [decode, hF, decodeF, hNN]; rfl

/-! ## Encoding what a word decodes to, family by family -/

theorem addrInRange_fieldNNN (op : Word) : addrInRange (fieldNNN op) = true := by
  have := fieldNNN_toNat op
  exact decide_eq_true (by omega)

theorem rowsInRange_fieldN (op : Word) : rowsInRange (fieldN op).toNat = true := decide_eq_true (fieldN op).isLt

theorem encode_of_decode0 {op : Word} {i : Instr} (h : decode0 op = .ok i) :
    i.wellFormed = true ∧ encode i = op := by
  unfold decode0 at h
  split_ifs at h with hcls hret <;> cases h
  · exact ⟨rfl, hcls.symm⟩
  · exact ⟨rfl, hret.symm⟩

theorem encode_of_decode8 {op : Word} {i : Instr} (hF : (fieldF op).toNat = 8) (h : decode8 op = .ok i) :
    i.wellFormed = true ∧ encode i = op := by
  unfold decode8 at h
  split at h <;> cases h <;> exact ⟨rfl, assemble_xy _ (by rw [hF, ‹(fieldN op).toNat = _›]; rfl)⟩

theorem encode_of_decodeE {op : Word} {i : Instr} (hF : (fieldF op).toNat = 14) (h : decodeE op = .ok i) :
    i.wellFormed = true ∧ encode i = op := by
  unfold decodeE at h
  split_ifs at h <;> cases h <;> exact ⟨rfl, assemble_x _ (by rw [hF, ‹fieldNN op = _›]; rfl)⟩

theorem encode_of_decodeF {op : Word} {i : Instr} (hF : (fieldF op).toNat = 15) (h : decodeF op = .ok i) :
    i.wellFormed = true ∧ encode i = op := by
  unfold decodeF at h
  split_ifs at h <;> cases h <;> exact ⟨rfl, assemble_x _ (by rw [hF, ‹fieldNN op = _›]; rfl)⟩

/-- Settles O2: along the branches of the decoder, each of which fixes the fields of the pattern; the word is the
pattern with its own operand fields. -/
theorem encodeInvertsDecode : Obligations.EncodeInvertsDecode := by
  intro op i h
  have hrange := (fieldF op).isLt
  unfold decode at h
  split at h
  case h_1 => exact encode_of_decode0 h
  case h_2 hF | h_3 hF | h_11 hF | h_12 hF =>
    cases h
    exact ⟨addrInRange_fieldNNN op, assemble_nnn _ (by rw [hF]; rfl)⟩
  case h_4 hF | h_5 hF | h_7 hF | h_8 hF | h_13 hF =>
    cases h
    exact ⟨rfl, assemble_xnn _ (by rw [hF]; rfl)⟩
  case h_6 hF | h_10 hF =>
    split at h
    · cases h
      exact ⟨rfl, assemble_xy _ (by rw [hF, ‹fieldN op = _›]; rfl)⟩
    · cases h
  case h_9 hF => exact encode_of_decode8 hF h
  case h_14 hF =>
    cases h
    exact ⟨rowsInRange_fieldN op, assemble_xyn _ (by rw [hF]; rfl)⟩
  case h_15 hF => exact encode_of_decodeE hF h
  case h_16 =>
    simp only [imp_false] at *
    exact encode_of_decodeF (by omega) h

/-! ## The opcode map (R100) -/

theorem row_mem_opcodeTable (i : Instr) : i.row ∈ opcodeTable := by
  cases i <;> exact of_decide_eq_true rfl

/-- Every row of the map is the row of some instruction. -/
theorem exists_row_eq : ∀ r ∈ opcodeTable, ∃ i : Instr, i.row = r := by simp [opcodeTable]

open Laws.WordOfRow in
/-- The encoding of every well-formed instruction lies in the instruction's row. -/
theorem holds_encode (i : Instr) : Statement i :=
  match i with
  | .cls => cls
  | .ret => ret
  | .jp nnn => jp nnn
  | .call nnn => call nnn
  | .seImm x nn => seImm x nn
  | .sneImm x nn => sneImm x nn
  | .seReg x y => seReg x y
  | .ldImm x nn => ldImm x nn
  | .addImm x nn => addImm x nn
  | .ldReg x y => ldReg x y
  | .orReg x y => orReg x y
  | .andReg x y => andReg x y
  | .xorReg x y => xorReg x y
  | .addReg x y => addReg x y
  | .sub x y => sub x y
  | .shr x y => shr x y
  | .subn x y => subn x y
  | .shl x y => shl x y
  | .sneReg x y => sneReg x y
  | .ldI nnn => ldI nnn
  | .jpV0 nnn => jpV0 nnn
  | .rnd x nn => rnd x nn
  | .drw x y n => drw x y n
  | .skp x => skp x
  | .sknp x => sknp x
  | .ldVxDt x => ldVxDt x
  | .ldVxK x => ldVxK x
  | .ldDtVx x => ldDtVx x
  | .ldStVx x => ldStVx x
  | .addI x => addI x
  | .ldF x => ldF x
  | .ldB x => ldB x
  | .storeRegs x => storeRegs x
  | .loadRegs x => loadRegs x

/-! ## Settled: the opcode map -/

/-- Settles O3: the word is the encoding of a well-formed instruction, which lies in the row of that instruction. -/
theorem decodedWordMatchesItsRow : Obligations.DecodedWordMatchesItsRow := by
  intro op i h
  obtain ⟨hwf, rfl⟩ := encodeInvertsDecode op i h
  exact ⟨row_mem_opcodeTable i, of_decide_eq_true (holds_encode i hwf)⟩

/-! ## A word for which a row holds decodes into that row (R100, R102) -/

section Masks
variable {op m p : Word} (h : op &&& m = p)
include h

/-- A mask that keeps a whole field fixes that field. -/
theorem extractLsb'_of_mask (k w : Nat) (hm : m.extractLsb' k w = BitVec.allOnes w) :
    op.extractLsb' k w = p.extractLsb' k w := by
  rw [← h, BitVec.extractLsb'_and, hm, BitVec.and_allOnes]

theorem fieldF_of_mask (hm : fieldF m = BitVec.allOnes 4) : fieldF op = fieldF p := extractLsb'_of_mask h 12 4 hm

theorem fieldN_of_mask (hm : fieldN m = BitVec.allOnes 4) : fieldN op = fieldN p := extractLsb'_of_mask h 0 4 hm

theorem fieldNN_of_mask (hm : fieldNN m = BitVec.allOnes 8) : fieldNN op = fieldNN p := extractLsb'_of_mask h 0 8 hm

theorem eq_of_full_mask (hm : m = BitVec.allOnes 16) : op = p := by
  rw [← h, hm, BitVec.and_allOnes]

end Masks

/-- A word for which a row holds decodes to an instruction of that row. -/
theorem decode_of_row_holds {i : Instr} {op : Word} (h : op &&& i.row.mask = i.row.pattern) :
    ∃ j, decode op = .ok j ∧ j.row = i.row := by
  cases i <;> dsimp only [Instr.row] at h
  case cls | ret =>
    exact ⟨_, by rw [eq_of_full_mask h rfl]; rfl, rfl⟩
  case seReg | sneReg =>
    refine ⟨_, by rw [decode, fieldF_of_mask h rfl, fieldN_of_mask h rfl]; rfl, ?_⟩; rfl
  case ldReg | orReg | andReg | xorReg | addReg | sub | shr | subn | shl =>
    refine ⟨_, by rw [decode, fieldF_of_mask h rfl, decode8, fieldN_of_mask h rfl]; rfl, ?_⟩; rfl
  case skp | sknp =>
    refine ⟨_, by rw [decode, fieldF_of_mask h rfl, decodeE, fieldNN_of_mask h rfl]; rfl, ?_⟩; rfl
  case ldVxDt | ldVxK | ldDtVx | ldStVx | addI | ldF | ldB | storeRegs | loadRegs =>
    refine ⟨_, by rw [decode, fieldF_of_mask h rfl, decodeF, fieldNN_of_mask h rfl]; rfl, ?_⟩; rfl
  all_goals
    refine ⟨_, by rw [decode, fieldF_of_mask h rfl]; rfl, ?_⟩; rfl

/-- Settles O5: a word decodes to one instruction only, and each row that holds for the word is the row of that
instruction. -/
theorem opcodeRowsAreDisjoint : Obligations.OpcodeRowsAreDisjoint := by
  intro op r hr q hq hopr hopq
  obtain ⟨i, rfl⟩ := exists_row_eq r hr
  obtain ⟨j, rfl⟩ := exists_row_eq q hq
  obtain ⟨k, hk, hki⟩ := decode_of_row_holds hopr
  obtain ⟨l, hl, hlj⟩ := decode_of_row_holds hopq
  cases hk.symm.trans hl
  exact hki.symm.trans hlj

/-- The decoder's one error on a word says that the word is unknown (R104). -/
theorem decode_eq_error {op : Word} {e : DecodeError} (h : decode op = .error e) : e = .unknownOpcode op := by
  unfold decode at h
  split at h
  case h_1 => unfold decode0 at h; split_ifs at h; cases h; rfl
  case h_6 | h_10 => split at h <;> cases h; rfl
  case h_9 => unfold decode8 at h; split at h <;> cases h; rfl
  case h_15 => unfold decodeE at h; split_ifs at h; cases h; rfl
  case h_16 => unfold decodeF at h; split_ifs at h; cases h; rfl
  all_goals cases h

/-- Settles O4: a word for which a row holds decodes, and a word that decodes has its row. -/
theorem unknownWordsMatchNoRow : Obligations.UnknownWordsMatchNoRow := by
  intro op
  constructor
  · intro h r hr hop
    obtain ⟨i, rfl⟩ := exists_row_eq r hr
    obtain ⟨j, hj, -⟩ := decode_of_row_holds hop
    cases h.symm.trans hj
  · intro h
    cases hd : decode op with
    | error e => rw [decode_eq_error hd]
    | ok i =>
      obtain ⟨hmem, hop⟩ := decodedWordMatchesItsRow op i hd
      exact absurd hop (h _ hmem)

/-- Settles O6, by evaluation of the ten words. -/
theorem sampleWordsDecode : Obligations.SampleWordsDecode := by
  unfold Obligations.SampleWordsDecode
  decide

end Sys2Proof

/-! PROOFS. Rules about the operations and their frames that the statements below share. -/

namespace Sys2Proof.Machine

/-! ## Skips, operands and flags -/

@[simp] theorem skipIf_mem (c : Bool) (s : State) : (skipIf c s).mem = s.mem := by rw [skipIf_eq, jump_mem]

@[simp] theorem skipIf_stack (c : Bool) (s : State) : (skipIf c s).stack = s.stack := by rw [skipIf_eq, jump_stack]

theorem lowNibble_val (b : Byte) : (lowNibble b).val = b.toNat % 16 := by simp [lowNibble]

theorem glyphAddr_toNat (b : Byte) : (glyphAddr b).toNat = 0x050 + 5 * (b.toNat % 16) := by
  simp only [glyphAddr, lowNibble_val, Config.fontBase, BitVec.toNat_ofNat]
  omega

theorem keyOf_eq (s : State) (x : Reg) : keyOf s x = Fin.ofNat 16 (s.reg x).toNat := Fin.ext (lowNibble_val _)

theorem offsetTarget_toNat (s : State) (nnn : Word) (h : nnn.toNat ≤ 0xFFF) :
    (offsetTarget s nnn).toNat = nnn.toNat + (s.reg 0).toNat := by
  have := (s.reg 0).isLt
  rw [offsetTarget, BitVec.toNat_ofNat, Nat.mod_eq_of_lt (by omega)]

theorem bitOutRight_toNat (b : Byte) : (if bitOutRight b = true then 1 else 0) = b.toNat % 2 := by
  simp only [bitOutRight, BitVec.getLsbD, Nat.testBit_zero, decide_eq_true_eq]
  split <;> omega

theorem bitOutLeft_toNat (b : Byte) : (if bitOutLeft b = true then 1 else 0) = b.toNat / 128 := by
  have := b.isLt
  simp only [bitOutLeft, BitVec.getLsbD, Nat.testBit_eq_decide_div_mod_eq, decide_eq_true_eq]
  split <;> omega

/-- With X other than F, VX holds the result. -/
theorem result_writeResultThenFlag (s : State) {x : Reg} (b : Byte) (c : Bool) (hx : x ≠ 15) :
    (writeResultThenFlag s x b c).reg x = b := by
  rw [reg_writeResultThenFlag, if_neg hx, if_pos rfl]

/-- VF holds the flag, also with X = F. -/
theorem flag_writeResultThenFlag (s : State) (x : Reg) (b : Byte) (c : Bool) :
    ((writeResultThenFlag s x b c).reg 15).toNat = if c = true then 1 else 0 := by
  rw [reg_writeResultThenFlag, if_pos rfl, flagByte_toNat]

/-! ## Memory -/

theorem Memory.read_writeList_add (m : Memory) (a k : Nat) (cs : List Byte) (h : k < cs.length) :
    (m.writeList a cs).read (a + k) = cs[k] := by
  rw [Memory.read_writeList, if_pos (Nat.le_add_right a k), Nat.add_sub_cancel_left,
    List.getD_eq_getElem _ _ h]

theorem loadedState_mem (program : List Byte) (s : State) :
    (loadedState program s).mem = Memory.writeList [] 0x200 program := rfl

theorem read_loadedState_program (program : List Byte) (s : State) {j : Nat} (hj : j < program.length) :
    (loadedState program s).mem.read (0x200 + j) = program.getD j 0 := by
  rw [loadedState_mem, Memory.read_writeList_add _ _ _ _ hj, List.getD_eq_getElem _ _ hj]

theorem read_loadedState_outside (program : List Byte) (s : State) {a : Nat}
    (ha : a < 0x200 ∨ 0x200 + program.length ≤ a) : (loadedState program s).mem.read a = unlistedByte a := by
  rw [loadedState_mem, Memory.read_writeList_outside _ _ _ _ ha, Memory.read]

/-! ## Frames -/

/-- A frame of one piece lies in every frame that allows that piece. -/
theorem OnlyChanges.of_part {may : Part → Prop} {q : Part} {s t : State} (h : OnlyChanges (fun p => p = q) s t)
    (hq : may q) : OnlyChanges may s t :=
  h.mono fun _ hp => hp ▸ hq

theorem onlyChanges_stack_jump (s : State) (l : List Word) (w : Word) :
    OnlyChanges (fun p => p = .pc ∨ p = .stack) s (({ s with stack := l } : State).jump w) := by
  intro p hp
  cases p with
  | pc => exact absurd (.inl rfl) hp
  | stack => exact absurd (.inr rfl) hp
  | _ => rfl

/-- Counting a draw changes no piece of the engine's state. -/
theorem onlyChanges_draws {may : Part → Prop} {s t : State} (d : Nat)
    (h : OnlyChanges may { s with draws := d } t) : OnlyChanges may s t := by
  intro p hp
  have := h p hp
  cases p <;> exact this

/-- A key press that ends a wait changes the key, the wait target and MODE. -/
theorem onlyChanges_keyPress (s : State) (x : Reg) (k : Key) (b : Byte) (m : Mode) :
    OnlyChanges (fun p => p = .key k ∨ p = .reg x ∨ p = .mode) s
      { s.setReg x b with keys := s.keys.set k true, mode := m } := by
  intro p hp
  simp only [not_or] at hp
  obtain ⟨hkey, hreg, hmode⟩ := hp
  cases p with
  | key j => exact onlyChanges_keys s k true (.key j) hkey
  | reg r => exact onlyChanges_setReg s x b (.reg r) hreg
  | mode => exact absurd rfl hmode
  | _ => rfl

/-! ## The key press, mode by mode -/

theorem keyNumber_toNat (k : Key) : (BitVec.ofNat 8 k.val).toNat = k.val :=
  Nat.mod_eq_of_lt (by omega)

section KeyPress
variable (k : Key) {s : State}

theorem perform_keyPress_running (hm : s.mode = .running) :
    perform (.keyPress k) s = .next { s with keys := s.keys.set k true } := by
  simp only [perform, keyPress, hm]

theorem perform_keyPress_waiting {x : Reg} (hm : s.mode = .waitingForKey x) : perform (.keyPress k) s =
    .next { s.setReg x (BitVec.ofNat 8 k.val) with keys := s.keys.set k true, mode := .running } := by
  simp only [perform, keyPress, hm]

theorem perform_keyPress_faulted (hm : s.mode.isFaulted = true) : perform (.keyPress k) s = .next s := by
  cases h : s.mode <;> simp_all [perform, keyPress, Mode.isFaulted]

end KeyPress

end Sys2Proof.Machine

/-! PROOFS. What any instruction can do: its effect or its one fatal error, and which pieces of state it may change. -/

namespace Sys2Proof.Machine

/-! ## Every instruction has its effect or raises its one fatal error -/

/-- The fatal error an instruction raises on `s`, with the condition under which it does (R250, R251). -/
inductive RaiseCause (s : State) : Instr → Fault → Prop where
  | call (nnn : Word) (h : 16 ≤ s.stack.length) : RaiseCause s (.call nnn) (.stackOverflow s.fetchAddr)
  | ret (h : s.stack = []) : RaiseCause s .ret (.stackUnderflow s.fetchAddr)
  | ldB (x : Reg) (h : 0xFFF < indexAddr s + 2) :
      RaiseCause s (.ldB x) (.memoryOutOfBounds s.fetchAddr (max (indexAddr s) 0x1000))
  | storeRegs (x : Reg) (h : 0xFFF < indexAddr s + x.val) :
      RaiseCause s (.storeRegs x) (.memoryOutOfBounds s.fetchAddr (max (indexAddr s) 0x1000))
  | loadRegs (x : Reg) (h : 0xFFF < indexAddr s + x.val) :
      RaiseCause s (.loadRegs x) (.memoryOutOfBounds s.fetchAddr (max (indexAddr s) 0x1000))
  | drw (x y : Reg) (n : Nat) (h : 0xFFF < indexAddr s + n) :
      RaiseCause s (.drw x y (n + 1)) (.memoryOutOfBounds s.fetchAddr (max (indexAddr s) 0x1000))

theorem exec_of_raiseCause {s : State} {i : Instr} {f : Fault} (h : RaiseCause s i f) :
    exec i s = .next (raise f s) := by
  cases h with
  | call nnn h => rw [exec, execCall, push_error s _ h]; rfl
  | ret h => rw [exec, execRet, pop_error s h]; rfl
  | ldB x h => rw [exec, execLdB, writeBytes_error s _ _ (by simp) (by rw [bcdDigits_length]; omega)]; rfl
  | storeRegs x h => rw [exec, execStoreRegs, writeBytes_error s _ _ (by simp) (by rw [regsUpTo_length]; omega)]; rfl
  | loadRegs x h => rw [exec, execLoadRegs, readBytes_error s _ _ (by omega) (by omega)]; rfl
  | drw x y n h => rw [exec, execDrw, readBytes_error s _ _ (by omega) (by omega)]; rfl

theorem raises_of_raiseCause {s : State} {i : Instr} {f : Fault} (h : RaiseCause s i f) : Raises i s f :=
  ⟨_, exec_of_raiseCause h, raise_mode s f⟩

/-- The converse of `effect_of_completes`: under its condition each instruction answers its effect. -/
theorem exec_of_effect {s t : State} {i : Instr} (h : Effect s i t) : exec i s = .next t := by
  cases h
  case call nnn h => rw [exec, execCall, push_ok s _ h]; rfl
  case ret below w h => rw [exec, execRet, pop_ok s below w h]; rfl
  case ldB x h => rw [exec, execLdB, writeBytes_ok s _ _ (.inr h)]; rfl
  case storeRegs x h => rw [exec, execStoreRegs, writeBytes_ok s _ _ (.inr (by rwa [regsUpTo_length]))]; rfl
  case loadRegs x h => rw [exec, execLoadRegs, readBytes_ok s _ _ (.inr h)]; rfl
  case drw x y n h => rw [exec, execDrw, readBytes_ok s _ _ h]; rfl
  all_goals rfl

/-- The conditions of the effect and of the fatal error are exhaustive. -/
theorem effect_or_raiseCause (i : Instr) (s : State) : (∃ t, Effect s i t) ∨ ∃ f, RaiseCause s i f := by
  cases i
  case call nnn =>
    by_cases h : s.stack.length < 16
    · exact .inl ⟨_, .call nnn h⟩
    · exact .inr ⟨_, .call nnn (by omega)⟩
  case ret =>
    obtain ⟨below, w, h, -⟩ | ⟨h, -⟩ := pop_cases s
    · exact .inl ⟨_, .ret below w h⟩
    · exact .inr ⟨_, .ret h⟩
  case ldB x =>
    by_cases h : indexAddr s + 3 ≤ 4096
    · exact .inl ⟨_, .ldB x h⟩
    · exact .inr ⟨_, .ldB x (by omega)⟩
  case storeRegs x =>
    by_cases h : indexAddr s + (x.val + 1) ≤ 4096
    · exact .inl ⟨_, .storeRegs x h⟩
    · exact .inr ⟨_, .storeRegs x (by omega)⟩
  case loadRegs x =>
    by_cases h : indexAddr s + (x.val + 1) ≤ 4096
    · exact .inl ⟨_, .loadRegs x h⟩
    · exact .inr ⟨_, .loadRegs x (by omega)⟩
  case drw x y n =>
    by_cases h : n = 0 ∨ indexAddr s + n ≤ 4096
    · exact .inl ⟨_, .drw x y n h⟩
    · obtain ⟨m, rfl⟩ : ∃ m, n = m + 1 := ⟨n - 1, by omega⟩
      exact .inr ⟨_, .drw x y m (by omega)⟩
  all_goals exact .inl ⟨_, by constructor⟩

/-- Everything `exec` can answer: the instruction's effect, or fault entry with its one error. -/
theorem exec_cases {s t : State} {i : Instr} (h : exec i s = .next t) :
    Effect s i t ∨ ∃ f, RaiseCause s i f ∧ t = raise f s := by
  obtain ⟨u, hu⟩ | ⟨f, hf⟩ := effect_or_raiseCause i s
  · cases h.symm.trans (exec_of_effect hu)
    exact .inl hu
  · cases h.symm.trans (exec_of_raiseCause hf)
    exact .inr ⟨f, hf, rfl⟩

/-! ## What each instruction may change -/

/-- The pieces of state that an instruction may change when it completes (the column Writes of R100; R22, R26, R39, R40,
R66). PC is left open here. -/
def mayChange (i : Instr) : Part → Prop
  | .reg r => r ∈ destinations i ∨ (r = 15 ∧ writesFlag i = true)
  | .byte _ => (∃ x, i = .ldB x) ∨ ∃ x, i = .storeRegs x
  | .pixel _ _ => i = .cls ∨ ∃ x y n, i = .drw x y n
  | .key _ => False
  | .index => (∃ nnn, i = .ldI nnn) ∨ (∃ x, i = .ldF x) ∨ ∃ x, i = .addI x
  | .pc => True
  | .stack => (∃ nnn, i = .call nnn) ∨ i = .ret
  | .delay => ∃ x, i = .ldDtVx x
  | .sound => ∃ x, i = .ldStVx x
  | .mode => ∃ x, i = .ldVxK x

/-- The frame of every instruction. -/
theorem onlyChanges_of_effect {s t : State} {i : Instr} (h : Effect s i t) : OnlyChanges (mayChange i) s t := by
  cases h
  case cls => exact (onlyChanges_fb s _).mono (by rintro _ ⟨py, px, rfl⟩; exact .inl rfl)
  case drw x y n h =>
    refine (onlyChanges_drawAt s _ _ _).mono ?_
    rintro _ (rfl | ⟨py, px, rfl⟩)
    · exact .inr ⟨rfl, rfl⟩
    · exact .inr ⟨x, y, n, rfl⟩
  case ret => exact (onlyChanges_stack_jump s _ _).mono (by rintro _ (rfl | rfl); exacts [trivial, .inr rfl])
  case call nnn _ =>
    exact (onlyChanges_stack_jump s _ _).mono (by rintro _ (rfl | rfl); exacts [trivial, .inl ⟨nnn, rfl⟩])
  case jp | jpV0 => exact (onlyChanges_jump s _).of_part trivial
  case seImm | sneImm | seReg | sneReg | skp | sknp =>
    exact (onlyChanges_skipIf _ s).of_part trivial
  case ldImm | addImm | ldReg | orReg | andReg | xorReg | ldVxDt =>
    exact (onlyChanges_setReg s _ _).of_part (by simp [mayChange, destinations])
  case rnd =>
    exact onlyChanges_draws _ ((onlyChanges_setReg _ _ _).of_part (by simp [mayChange, destinations]))
  case addReg | sub | shr | subn | shl =>
    refine (onlyChanges_writeResultThenFlag s _ _ _).mono ?_
    rintro _ (rfl | rfl) <;> simp [mayChange, destinations, writesFlag]
  case ldI nnn => exact (onlyChanges_index s _).of_part (.inl ⟨nnn, rfl⟩)
  case ldF x => exact (onlyChanges_index s _).of_part (.inr (.inl ⟨x, rfl⟩))
  case addI x => exact (onlyChanges_index s _).of_part (.inr (.inr ⟨x, rfl⟩))
  case ldDtVx x => exact (onlyChanges_delay s _).of_part ⟨x, rfl⟩
  case ldStVx x => exact (onlyChanges_sound s _).of_part ⟨x, rfl⟩
  case ldVxK x => exact (onlyChanges_mode s _).of_part ⟨x, rfl⟩
  case ldB x _ => exact (onlyChanges_writeList s _ _).mono (by rintro _ ⟨k, -, rfl⟩; exact .inl ⟨x, rfl⟩)
  case storeRegs x _ => exact (onlyChanges_writeList s _ _).mono (by rintro _ ⟨k, -, rfl⟩; exact .inr ⟨x, rfl⟩)
  case loadRegs x _ =>
    refine (onlyChanges_loadRegList s _).mono ?_
    rintro _ ⟨k, hk, rfl⟩
    have : k ≤ x := by simpa [Nat.lt_succ_iff] using hk
    simp [mayChange, destinations, this]

/-- Memory as a list of cells, not only as what it reads: `mayChange` speaks of single bytes. -/
theorem mem_of_effect {s t : State} {i : Instr} (h : Effect s i t) (hB : ∀ x, i ≠ .ldB x)
    (hS : ∀ x, i ≠ .storeRegs x) : t.mem = s.mem := by
  cases h
  case ldB x _ => exact absurd rfl (hB x)
  case storeRegs x _ => exact absurd rfl (hS x)
  all_goals simp

/-! ## Settled statements -/

/-- Settles O17: no key is among the pieces an instruction may change. -/
theorem noInstructionWritesTheKeyPad : Obligations.NoInstructionWritesTheKeyPad := fun _ _ _ h k =>
  onlyChanges_of_effect (effect_of_completes h) (.key k) id

/-- Settles O18: pixel by pixel, from the pieces an instruction may change. -/
theorem onlyClearAndDrawWriteTheFramebuffer : Obligations.OnlyClearAndDrawWriteTheFramebuffer := by
  intro i s t h hcls hdrw
  refine frame_ext _ _ fun py px => onlyChanges_of_effect (effect_of_completes h) (.pixel py px) ?_
  rintro (hi | ⟨x, y, n, hi⟩)
  · exact hcls hi
  · exact hdrw x y n hi

/-- Settles O19: memory is the same list of cells after every effect but those of the two stores. -/
theorem onlyStoresWriteMemory : Obligations.OnlyStoresWriteMemory := fun _ _ _ h =>
  mem_of_effect (effect_of_completes h)

/-- Settles O20, from the pieces an instruction may change. -/
theorem onlyDestinationsAndTheFlagAreWritten : Obligations.OnlyDestinationsAndTheFlagAreWritten := by
  intro i s t r h hdest hflag
  refine onlyChanges_of_effect (effect_of_completes h) (.reg r) ?_
  rintro (hr | ⟨hr, hf⟩)
  · exact hdest hr
  · rw [hflag hr] at hf
    cases hf

/-- Settles O21: of the three instructions that may change I, ANNN loads at most 0xFFF when it is well-formed and FX29
a glyph address. -/
theorem indexLeavesMemoryOnlyThroughAdd : Obligations.IndexLeavesMemoryOnlyThroughAdd := by
  intro i s t hwf h hs ht
  have he := effect_of_completes h
  by_cases hi : mayChange i .index
  · obtain ⟨nnn, rfl⟩ | ⟨x, rfl⟩ | hadd := hi
    · cases he
      dsimp only at ht
      have : nnn.toNat < 0x1000 := of_decide_eq_true hwf
      omega
    · cases he
      dsimp only at ht
      have := glyphAddr_toNat (s.reg x)
      omega
    · exact hadd
  · have : t.i = s.i := onlyChanges_of_effect he .index hi
    rw [this] at ht
    omega

/-- Settles O22, from the pieces an instruction may change. -/
theorem timersStackAndModeHaveTheirOwnWriters : Obligations.TimersStackAndModeHaveTheirOwnWriters := by
  intro i s t h
  have hframe := onlyChanges_of_effect (effect_of_completes h)
  refine ⟨fun hi => hframe .delay ?_, fun hi => hframe .sound ?_, fun hcall hret => hframe .stack ?_,
    fun hi => hframe .mode ?_⟩
  · rintro ⟨x, rfl⟩; exact hi x rfl
  · rintro ⟨x, rfl⟩; exact hi x rfl
  · rintro (⟨nnn, rfl⟩ | rfl)
    · exact hcall nnn rfl
    · exact hret rfl
  · rintro ⟨x, rfl⟩; exact hi x rfl

end Sys2Proof.Machine

/-! PROOFS. The step cycle (40_step_cycle.md) and the fatal errors of a step (60_exceptions.md). -/

namespace Sys2Proof.Machine

/-! ## `Step()`, phase by phase (R121 to R125) -/

theorem perform_step (s : State) : perform .step s = engineStep s := rfl

theorem engineStep_not_running {s : State} (h : s.mode ≠ .running) : engineStep s = .next s := by
  unfold engineStep
  split
  · rfl
  · rfl
  · exact absurd ‹s.mode = .running› h

theorem engineStep_outside_window {s : State} (hm : s.mode = .running)
    (hw : s.pc.toNat < 0x200 ∨ 0xFFE < s.pc.toNat) : engineStep s = .next (raise (.fetchError s.pc) s) := by
  rw [engineStep, hm]
  refine if_neg fun h => ?_
  rw [inFetchWindow_iff] at h
  omega

section Fetched
variable {s : State} (hm : s.mode = .running) (hlo : 0x200 ≤ s.pc.toNat) (hhi : s.pc.toNat ≤ 0xFFE)
include hm hlo hhi

theorem engineStep_in_window : engineStep s = runFetched s := by
  rw [engineStep, hm]
  exact if_pos ((inFetchWindow_iff s.pc).2 ⟨hlo, hhi⟩)

theorem engineStep_unknown {e : DecodeError} (hd : decode (fetchWord s) = .error e) :
    engineStep s = .next (raise (.unknownOpcode s.pc (fetchWord s)) (advance s)) := by
  rw [engineStep_in_window hm hlo hhi, runFetched, hd]

theorem engineStep_decoded {i : Instr} (hd : decode (fetchWord s) = .ok i) : engineStep s = exec i (advance s) := by
  rw [engineStep_in_window hm hlo hhi, runFetched, hd]

end Fetched

/-! ## Settled statements -/

/-- Settles O8: the two cases of `nextTransaction`. -/
theorem stepPerformsTheNextTransaction : Obligations.StepPerformsTheNextTransaction :=
  ⟨step_of_schedule, step_of_empty_schedule⟩

/-- Settles O9: the mode gate of `Step()`. -/
theorem stepOutsideRunningChangesNothing : Obligations.StepOutsideRunningChangesNothing :=
  ⟨fun _ _ h => engineStep_not_running (by simp [h]), fun _ _ h => engineStep_not_running (by simp [h])⟩

/-- Settles O7: the last phase of `Step()`, for the empty schedule and for a scheduled `Step()`. -/
theorem stepRunsTheDecodedInstruction : Obligations.StepRunsTheDecodedInstruction := by
  intro s i hm hlo hhi hd
  constructor
  · intro hs
    rw [step_of_empty_schedule s hs]
    exact engineStep_decoded hm hlo hhi hd
  · intro rest hs
    rw [step_of_schedule s .step rest hs]
    exact engineStep_decoded (s := { s with schedule := rest }) hm hlo hhi hd

/-- Settles O10: the fetch check of `Step()`. -/
theorem fetchOutsideTheWindowRaisesFetchError : Obligations.FetchOutsideTheWindowRaisesFetchError :=
  fun s hm hw => ⟨_, engineStep_outside_window hm hw, raise_mode s _⟩

/-- Settles O11: the decode phase of `Step()`. -/
theorem unknownWordRaisesUnknownOpcode : Obligations.UnknownWordRaisesUnknownOpcode := by
  rintro s op hm hlo hhi rfl hd
  exact ⟨_, engineStep_unknown hm hlo hhi hd, raise_mode _ _⟩

/-- Settles O13, transaction by transaction. -/
theorem faultedIsLeftOnlyByReset : Obligations.FaultedIsLeftOnlyByReset := by
  intro s f tr hm htr
  cases tr with
  | reset program => exact absurd rfl (htr program)
  | step => exact engineStep_not_running (by simp [hm])
  | tickTimers => simp [perform, tickTimers, hm]
  | keyPress k => simp [perform, keyPress, hm]
  | keyRelease k => simp [perform, keyRelease, hm]

/-- Settles O14: the word at PC is the encoding of a jump to PC, so by the round trip of the encoding it decodes to
that jump, which puts PC back. -/
theorem parkedStateIsFixedByStep : Obligations.ParkedStateIsFixedByStep := by
  intro s h
  simp only [State.parked, Bool.and_eq_true, decide_eq_true_eq, inFetchWindow_iff] at h
  obtain ⟨⟨hm, hlo, hhi⟩, hword⟩ := h
  have hd : decode (fetchWord s) = .ok (.jp s.pc) := by
    rw [hword]
    exact decodeInvertsEncode (.jp s.pc) (decide_eq_true (by omega))
  rw [perform_step, engineStep_decoded hm hlo hhi hd]
  rfl

/-! ## The errors of a step -/

/-- An instruction that completes does not enter `Faulted` mode. -/
theorem isFaulted_of_effect {s t : State} {i : Instr} (h : Effect s i t) (hs : s.mode.isFaulted = false) :
    t.mode.isFaulted = false := by
  by_cases hi : mayChange i .mode
  · obtain ⟨x, rfl⟩ := hi
    cases h
    rfl
  · have hmode : t.mode = s.mode := onlyChanges_of_effect h .mode hi
    rw [hmode, hs]

/-- An instruction that enters `Faulted` mode does so by its one fatal error. -/
theorem raiseCause_of_exec {s t : State} {i : Instr} {f : Fault} (h : exec i s = .next t)
    (hs : s.mode.isFaulted = false) (ht : t.mode = .faulted f) : RaiseCause s i f := by
  obtain he | ⟨g, hg, rfl⟩ := exec_cases h
  · have := isFaulted_of_effect he hs
    rw [ht] at this
    cases this
  · cases ht
    exact hg

theorem fetchAddr_advance (s : State) : (advance s).fetchAddr = s.pc := by
  simp [State.fetchAddr]

/-- Settles O12: the phases of `Step()` in order, and in the last one the one error the decoded instruction can
raise. -/
theorem stepRaisesOnlyTheErrorOfItsPhase : Obligations.StepRaisesOnlyTheErrorOfItsPhase := by
  intro s t f hm hstep ht
  rw [perform_step] at hstep
  by_cases hw : s.pc.toNat < 0x200 ∨ 0xFFE < s.pc.toNat
  · cases hstep.symm.trans (engineStep_outside_window hm hw)
    cases ht
    exact .inl ⟨rfl, hw⟩
  have hlo : 0x200 ≤ s.pc.toNat := by omega
  have hhi : s.pc.toNat ≤ 0xFFE := by omega
  refine .inr ⟨hlo, hhi, ?_⟩
  cases hd : decode (fetchWord s) with
  | error e =>
    cases hstep.symm.trans (engineStep_unknown hm hlo hhi hd)
    cases ht
    obtain rfl := decode_eq_error hd
    exact .inl ⟨rfl, hd⟩
  | ok i =>
    rw [engineStep_decoded hm hlo hhi hd] at hstep
    have hcause := raiseCause_of_exec hstep (by simp [hm, Mode.isFaulted]) ht
    have hfetch := fetchAddr_advance s
    cases hcause with
    | call nnn h => exact .inr (.inl ⟨by rw [hfetch], h, nnn, hd⟩)
    | ret h => exact .inr (.inr (.inl ⟨by rw [hfetch], h, hd⟩))
    | ldB x h => exact .inr (.inr (.inr ⟨by rw [hfetch]; rfl, _, hd, .inl ⟨x, rfl, h⟩⟩))
    | storeRegs x h => exact .inr (.inr (.inr ⟨by rw [hfetch]; rfl, _, hd, .inr (.inl ⟨x, .inl rfl, h⟩)⟩))
    | loadRegs x h => exact .inr (.inr (.inr ⟨by rw [hfetch]; rfl, _, hd, .inr (.inl ⟨x, .inr rfl, h⟩)⟩))
    | drw x y n h => exact .inr (.inr (.inr ⟨by rw [hfetch]; rfl, _, hd, .inr (.inr ⟨x, y, n, rfl, h⟩)⟩))

end Sys2Proof.Machine

/-! PROOFS. The invariant (10_state.md section 10). -/

namespace Sys2Proof.Machine

/-- A state about to execute the instruction before PC, with the ranges of R47: PC has been advanced from the fetch
window. -/
structure Ready (s : State) : Prop where
  pc_ge : 0x202 ≤ s.pc.toNat
  pc_le : s.pc.toNat ≤ 0x1000
  stack_le : s.stack.length ≤ 16
  stack_mem : ∀ w ∈ s.stack, 0x202 ≤ w.toNat ∧ w.toNat ≤ 0x1000
  mem_wf : s.mem.wf = true

section Effect
variable {s t : State} {i : Instr} (hs : Ready s) (h : Effect s i t)
include hs h

/-- The largest PC is that of BNNN, 0xFFF + 0xFF; a skip reaches at most 0x1002. -/
theorem pc_le_of_effect (hwf : i.wellFormed = true) : t.pc.toNat ≤ 0x10FE := by
  have hpc := hs.pc_le
  have hskip : ∀ c, (skipIf c s).pc.toNat ≤ 0x10FE := by
    intro c
    rw [skipIf_pc]
    split
    · rw [BitVec.toNat_add]; simp; omega
    · omega
  cases h
  case ret below w h =>
    have := (hs.stack_mem w (by simp [h])).2
    rw [jump_pc]; omega
  case jp nnn | call nnn _ =>
    have : nnn.toNat < 0x1000 := of_decide_eq_true hwf
    rw [jump_pc]; omega
  case jpV0 nnn =>
    have : nnn.toNat < 0x1000 := of_decide_eq_true hwf
    have := (s.reg 0).isLt
    rw [jump_pc, offsetTarget_toNat s nnn (by omega)]; omega
  case seImm | sneImm | seReg | sneReg | skp | sknp => exact hskip _
  all_goals simp; omega

theorem stack_of_effect : t.stack.length ≤ 16 ∧ ∀ w ∈ t.stack, 0x202 ≤ w.toNat ∧ w.toNat ≤ 0x1000 := by
  have hstack := hs.stack_mem
  by_cases hi : mayChange i .stack
  · obtain ⟨nnn, rfl⟩ | rfl := hi
    · cases h with
      | call _ hlen =>
        refine ⟨by simpa using hlen, fun w hw => ?_⟩
        obtain hw | rfl : w ∈ s.stack ∨ w = s.pc := by simpa using hw
        · exact hstack w hw
        · exact ⟨hs.pc_ge, hs.pc_le⟩
    · cases h with
      | ret below w h =>
        have hlen := hs.stack_le
        rw [h] at hlen hstack
        exact ⟨Nat.le_of_succ_le (by simpa using hlen), fun v hv => hstack v (List.mem_append_left _ hv)⟩
  · have hsame : t.stack = s.stack := onlyChanges_of_effect h .stack hi
    rw [hsame]
    exact ⟨hs.stack_le, hstack⟩

theorem mem_wf_of_effect : t.mem.wf = true := by
  cases h
  case ldB x h => exact Memory.wf_writeList _ _ _ hs.mem_wf (by rwa [bcdDigits_length])
  case storeRegs x h => exact Memory.wf_writeList _ _ _ hs.mem_wf (by rwa [regsUpTo_length])
  all_goals simpa using hs.mem_wf

theorem inv_of_effect (hwf : i.wellFormed = true) : t.Inv := by
  obtain ⟨hlen, hmem⟩ := stack_of_effect hs h
  exact fun _ => ⟨pc_le_of_effect hs h hwf, hlen, hmem, mem_wf_of_effect hs h⟩

end Effect

/-- The invariant says nothing of a faulted state (R268). -/
theorem inv_raise (f : Fault) (s : State) : (raise f s).Inv := nofun

/-- The fetch check leaves the advanced PC in the range of a return address (R47, R122). -/
theorem ready_advance {s : State} (hs : s.Inv) (hm : s.mode = .running) (hw : inFetchWindow s.pc = true) :
    Ready (advance s) := by
  obtain ⟨hlo, hhi⟩ := (inFetchWindow_iff s.pc).1 hw
  obtain ⟨-, hlen, hmem, hwf⟩ := hs (by rw [hm]; rfl)
  have hpc : (advance s).pc.toNat = s.pc.toNat + 2 := by
    rw [advance_eq, jump_pc, BitVec.toNat_add]
    exact Nat.mod_eq_of_lt (by simp; omega)
  exact ⟨by omega, by omega, hlen, hmem, hwf⟩

theorem inv_engineStep {s t : State} (hs : s.Inv) (h : engineStep s = .next t) : t.Inv := by
  obtain ⟨-, he⟩ | ⟨-, -, he⟩ | ⟨-, -, -, he⟩ | ⟨hm, hw, i, hd, he⟩ := engineStep_cases s <;> rw [he] at h
  · cases h; exact hs
  · cases h; exact inv_raise _ _
  · cases h; exact inv_raise _ _
  · obtain heff | ⟨f, -, rfl⟩ := exec_cases h
    · exact inv_of_effect (ready_advance hs hm hw) heff (encodeInvertsDecode _ i hd).1
    · exact inv_raise _ _

theorem inv_reset : State.reset.Inv := fun _ => ⟨by decide, by decide, nofun, reset_mem_wf⟩

theorem inv_resetWith (program : List Byte) (s : State) : (resetWith program s).Inv := by
  unfold resetWith
  split
  · exact inv_raise _ _
  · have hlen : program.length ≤ 3584 := Nat.le_of_not_lt ‹_›
    obtain ⟨hpc, hstack, hentries, hwf⟩ := inv_reset rfl
    exact fun _ => ⟨hpc, hstack, hentries, Memory.wf_writeList program _ _ hwf (by rw [Config.progBase]; omega)⟩

/-- Every transaction of the host keeps the invariant. -/
theorem inv_perform {s t : State} {tr : Transaction} (hs : s.Inv) (h : perform tr s = .next t) : t.Inv := by
  cases tr with
  | reset program => cases h; exact inv_resetWith program s
  | step => exact inv_engineStep hs h
  | tickTimers =>
    rw [perform_tickTimers] at h
    split at h <;> cases h <;> exact hs
  | keyRelease k =>
    rw [perform_keyRelease] at h
    split at h <;> cases h <;> exact hs
  | keyPress k =>
    cases hm : s.mode with
    | running => cases h.symm.trans (perform_keyPress_running k hm); exact hs
    | waitingForKey x => cases h.symm.trans (perform_keyPress_waiting k hm); exact fun _ => hs (by rw [hm]; rfl)
    | faulted f => cases h.symm.trans (perform_keyPress_faulted k (by rw [hm]; rfl)); exact hs

/-- Settles O15: the schedule is no part of the invariant, and every transaction keeps it. -/
theorem stepKeepsTheInvariant : Obligations.StepKeepsTheInvariant := by
  intro s t hs h
  cases hsch : s.schedule with
  | nil => exact inv_engineStep hs ((step_of_empty_schedule s hsch).symm.trans h)
  | cons tr rest =>
    exact inv_perform (s := { s with schedule := rest }) hs ((step_of_schedule s tr rest hsch).symm.trans h)

/-- Settles O16: the reset values meet the ranges, and an empty memory list is canonical. -/
theorem resetMeetsTheInvariant : Obligations.ResetMeetsTheInvariant := ⟨inv_reset, rfl⟩

end Sys2Proof.Machine

/-! PROOFS. The statements about single instructions (41_control_flow.md to 45_keypad_and_timers.md), each from the
instruction's effect by `exec_of_effect`, and about the key press and Reset (60_exceptions.md,
70_reset_and_hazards.md). -/

namespace Sys2Proof.Machine

/-! ## Control transfer -/

/-- Settles O23, from the effect of 00EE. -/
theorem returnPopsIntoPc : Obligations.ReturnPopsIntoPc := fun s below w h =>
  ⟨_, exec_of_effect (.ret below w h), rfl, rfl, onlyChanges_stack_jump s below w⟩

/-- Settles O24, from the effect of 1NNN. -/
theorem jumpSetsPc : Obligations.JumpSetsPc := fun nnn s =>
  ⟨_, exec_of_effect (.jp nnn), jump_pc s nnn, onlyChanges_jump s nnn⟩

/-- Settles O25, from the effect of 2NNN. -/
theorem callPushesTheReturnAddress : Obligations.CallPushesTheReturnAddress := fun nnn s h =>
  ⟨_, exec_of_effect (.call nnn h), rfl, rfl, onlyChanges_stack_jump s _ nnn⟩

/-- Settles O26: the two causes a stack instruction has to raise. -/
theorem fullAndEmptyStackRaise : Obligations.FullAndEmptyStackRaise :=
  ⟨fun nnn _ h => raises_of_raiseCause (.call nnn h), fun _ h => raises_of_raiseCause (.ret h)⟩

/-- Settles O28: each instruction is a `skipIf` on its comparison, which is decided when X = Y. -/
theorem registerSkipsCompareWithVY : Obligations.RegisterSkipsCompareWithVY := by
  intro x y s
  constructor
  · refine ⟨_, exec_of_effect (.seReg x y), by simp only [skipIf_pc, decide_eq_true_eq], ?_, onlyChanges_skipIf _ s⟩
    rintro rfl
    simp
  · refine ⟨_, exec_of_effect (.sneReg x y), by simp only [skipIf_pc, decide_eq_true_eq, ne_eq, ite_not], ?_,
      onlyChanges_skipIf _ s⟩
    rintro rfl
    simp

/-- Settles O29: the sum is at most 0x10FE, so 16 bits hold it. -/
theorem offsetJumpAddsV0 : Obligations.OffsetJumpAddsV0 := fun nnn s h =>
  ⟨_, exec_of_effect (.jpV0 nnn), offsetTarget_toNat s nnn h, onlyChanges_jump s _⟩

/-! ## Data and arithmetic -/

/-- Settles O32: each instruction writes VX once; the bits are those of the bitwise operation. -/
theorem copyAndLogicWriteOnlyVX : Obligations.CopyAndLogicWriteOnlyVX := by
  intro x y s
  refine ⟨⟨_, exec_of_effect (.ldReg x y), reg_setReg_same .., onlyChanges_setReg _ _ _⟩,
    ⟨_, exec_of_effect (.orReg x y), onlyChanges_setReg _ _ _, fun k => ?_⟩,
    ⟨_, exec_of_effect (.andReg x y), onlyChanges_setReg _ _ _, fun k => ?_⟩,
    ⟨_, exec_of_effect (.xorReg x y), onlyChanges_setReg _ _ _, fun k => ?_⟩⟩
  · rw [reg_setReg_same, BitVec.getLsbD_or]
  · rw [reg_setReg_same, BitVec.getLsbD_and]
  · rw [reg_setReg_same, BitVec.getLsbD_xor]

/-- Settles O33: result, then flag, with the wrapped sum and the carry. -/
theorem addWritesSumThenCarry : Obligations.AddWritesSumThenCarry := by
  intro x y s
  refine ⟨_, exec_of_effect (.addReg x y), fun hx => ?_, ?_, onlyChanges_writeResultThenFlag s x _ _⟩
  · rw [result_writeResultThenFlag s _ _ hx, addWrap_toNat]
  · simp only [flag_writeResultThenFlag, carryOut, decide_eq_true_eq]

/-- Settles O34: result, then flag, with the wrapped difference and the no-borrow flag. -/
theorem subtractWritesDifferenceThenNoBorrow : Obligations.SubtractWritesDifferenceThenNoBorrow := by
  intro x y s
  refine ⟨_, exec_of_effect (.sub x y), fun hx => ?_, ?_, onlyChanges_writeResultThenFlag s x _ _⟩
  · rw [result_writeResultThenFlag s _ _ hx, subWrap_toNat]
  · simp only [flag_writeResultThenFlag, noBorrow, decide_eq_true_eq]

/-- Settles O35: as 8XY5, with the operands exchanged. -/
theorem reverseSubtractWritesDifferenceThenNoBorrow : Obligations.ReverseSubtractWritesDifferenceThenNoBorrow := by
  intro x y s
  refine ⟨_, exec_of_effect (.subn x y), fun hx => ?_, ?_, onlyChanges_writeResultThenFlag s x _ _⟩
  · rw [result_writeResultThenFlag s _ _ hx, subWrap_toNat]
  · simp only [flag_writeResultThenFlag, noBorrow, decide_eq_true_eq]

/-- Settles O36: result, then flag; the effect does not mention Y. -/
theorem shiftsWriteResultThenBitOut : Obligations.ShiftsWriteResultThenBitOut := by
  intro x y s
  constructor
  · refine ⟨_, exec_of_effect (.shr x y), fun z => exec_of_effect (.shr x z), fun hx => ?_, ?_,
      onlyChanges_writeResultThenFlag s x _ _⟩
    · rw [result_writeResultThenFlag s _ _ hx, BitVec.toNat_ushiftRight, Nat.shiftRight_eq_div_pow, pow_one]
    · rw [flag_writeResultThenFlag, bitOutRight_toNat]
  · refine ⟨_, exec_of_effect (.shl x y), fun z => exec_of_effect (.shl x z), fun hx => ?_, ?_,
      onlyChanges_writeResultThenFlag s x _ _⟩
    · rw [result_writeResultThenFlag s _ _ hx, BitVec.toNat_shiftLeft, Nat.shiftLeft_eq, pow_one, Nat.mul_comm]
    · rw [flag_writeResultThenFlag, bitOutLeft_toNat]

/-- Settles O37: no use is made of the value of the free byte; the mask clears its bits. -/
theorem randomWritesAFreeByteUnderTheMask : Obligations.RandomWritesAFreeByteUnderTheMask := by
  intro x nn s
  refine ⟨_, exec_of_effect (.rnd x nn), reg_setReg_same .., rfl, fun k hk => ?_,
    onlyChanges_draws _ (onlyChanges_setReg _ _ _)⟩
  rw [reg_setReg_same, BitVec.getLsbD_and, hk, Bool.and_false]

/-! ## Index register and memory -/

/-- Settles O39, from the effect of FX1E. -/
theorem addToIndexWrapsAtSixteenBits : Obligations.AddToIndexWrapsAtSixteenBits := fun x s =>
  ⟨_, exec_of_effect (.addI x), BitVec.toNat_ofNat .., onlyChanges_index s _⟩

/-- Settles O40: the address is at most 0x09B, so 16 bits hold it. -/
theorem glyphAddressOfTheLowNibble : Obligations.GlyphAddressOfTheLowNibble := fun x s =>
  ⟨_, exec_of_effect (.ldF x), glyphAddr_toNat _, onlyChanges_index s _⟩

/-- Settles O41: the three bytes of the written list are read back, and each digit fits a byte. -/
theorem decimalDigitsAreStoredAtIndex : Obligations.DecimalDigitsAreStoredAtIndex := by
  intro x s h
  have hb := (s.reg x).isLt
  have hread : ∀ k (hk : k < 3), (s.mem.writeList (indexAddr s) (bcdDigits (s.reg x))).read (indexAddr s + k) =
      (bcdDigits (s.reg x))[k] := fun k hk => Memory.read_writeList_add s.mem _ k (bcdDigits (s.reg x)) hk
  refine ⟨_, exec_of_effect (.ldB x (by omega)), ?_, ?_, ?_, onlyChanges_writeList s _ (bcdDigits (s.reg x))⟩
  · exact (congrArg BitVec.toNat (hread 0 (by omega))).trans (Nat.mod_eq_of_lt (by omega))
  · exact (congrArg BitVec.toNat (hread 1 (by omega))).trans (Nat.mod_eq_of_lt (by omega))
  · exact (congrArg BitVec.toNat (hread 2 (by omega))).trans (Nat.mod_eq_of_lt (by omega))

/-- Settles O42: byte `k` of the written list is Vk. -/
theorem registersAreStoredFromIndex : Obligations.RegistersAreStoredFromIndex := by
  intro x s h
  refine ⟨_, exec_of_effect (.storeRegs x (by omega)), fun k hk => ?_, (onlyChanges_writeList s _ _).mono ?_⟩
  · have hlen : k.val < (regsUpTo s x).length := by rw [regsUpTo_length]; exact Nat.lt_succ_of_le hk
    refine (Memory.read_writeList_add s.mem _ k.val _ hlen).trans ?_
    simp [regsUpTo]
  · rintro _ ⟨k, hk, rfl⟩
    rw [regsUpTo_length] at hk
    exact ⟨⟨k, by omega⟩, Fin.le_def.2 (by dsimp only; omega), rfl⟩

/-- Settles O43: byte `k` of the list read goes to Vk. -/
theorem registersAreLoadedFromIndex : Obligations.RegistersAreLoadedFromIndex := by
  intro x s h
  refine ⟨_, exec_of_effect (.loadRegs x (by omega)), fun k hk => ?_, (onlyChanges_loadRegList s _).mono ?_⟩
  · have hk : k.val < x.val + 1 := Nat.lt_succ_of_le hk
    rw [reg_loadRegList, List.getD_eq_getElem _ _ (by simpa using hk)]
    simp
  · rintro _ ⟨k, hk, rfl⟩
    exact ⟨k, by simpa [Nat.lt_succ_iff] using hk, rfl⟩

/-- Settles O44: the causes that the four instructions with a memory access have to raise. -/
theorem accessPastMemoryRaisesOutOfBounds : Obligations.AccessPastMemoryRaisesOutOfBounds := fun x y n _ =>
  ⟨fun h => raises_of_raiseCause (.ldB x h),
    fun h => ⟨raises_of_raiseCause (.storeRegs x h), raises_of_raiseCause (.loadRegs x h)⟩,
    fun h => raises_of_raiseCause (.drw x y n h)⟩

/-- Settles O45: a store that completed was in bounds, so the load is; then the store rule and the load rule
compose. -/
theorem loadReturnsWhatStoreStored : Obligations.LoadReturnsWhatStoreStored := by
  intro x s t u hstore _ hmem hi
  have hbound : indexAddr s + x.val ≤ 0xFFF := by
    cases effect_of_completes hstore
    omega
  have hindex : indexAddr u = indexAddr s := by rw [indexAddr, hi, indexAddr]
  obtain ⟨t', ht', hstored, -⟩ := registersAreStoredFromIndex x s hbound
  cases hstore.1.symm.trans ht'
  obtain ⟨w, hw, hloaded, -⟩ := registersAreLoadedFromIndex x u (by rwa [hindex])
  refine ⟨w, hw, fun k hk => ?_⟩
  rw [hloaded k hk, hmem, hindex, hstored k hk]

/-! ## Display -/

/-- The `n` sprite rows that DXYN reads at I (R211). -/
def spriteRows (s : State) (n : Nat) : List Byte := (List.range n).map fun k => s.mem.read (indexAddr s + k)

theorem spriteRows_getD (s : State) {n r : Nat} (h : r < n) :
    (spriteRows s n).getD r 0 = s.mem.read (indexAddr s + r) := by
  simp [spriteRows, h]

theorem spriteLit_iff_mem (s : State) (x y : Reg) (n : Nat) (py : Fin 32) (px : Fin 64) :
    SpriteLit s x y n py px ↔ (py, px) ∈ litRows (spriteColumn s x) (spriteRow s y) (spriteRows s n) := by
  rw [mem_litRows]
  refine exists_congr fun r => exists_congr fun c => ?_
  rw [show (spriteRows s n).length = n by simp [spriteRows], Fin.ext_iff, Fin.ext_iff]
  refine and_congr_right fun hr => ?_
  rw [spriteRows_getD s hr]
  rfl

/-- Settles O47: the law of `drawSprite`, with the lit pixels of the loops read as `SpriteLit`. -/
theorem drawFlipsTheLitPixels : Obligations.DrawFlipsTheLitPixels := by
  intro x y n s hn h
  obtain ⟨hpix, hhit⟩ := drawSprite_spec s.fb (spriteColumn s x) (spriteRow s y) (spriteRows s n)
    (by simp [spriteRows]; omega)
  have hflag := reg_drawAt s 15 (spriteColumn s x) (spriteRow s y) (spriteRows s n)
  rw [if_pos rfl] at hflag
  refine ⟨_, exec_of_effect (.drw x y n h), fun py px hlit => (hpix py px).trans ?_,
    fun py px hlit => (hpix py px).trans ?_, fun hon => hflag.trans ?_, fun hoff => hflag.trans ?_,
    onlyChanges_drawAt s _ _ _⟩
  · rw [decide_eq_true ((spriteLit_iff_mem ..).1 hlit), Bool.xor_true]
  · rw [decide_eq_false (mt (spriteLit_iff_mem ..).2 hlit), Bool.xor_false]
  · simp only [spriteLit_iff_mem] at hon
    rw [hhit.2 hon]
    rfl
  · have hmiss : (drawSprite s.fb (spriteColumn s x) (spriteRow s y) (spriteRows s n)).2 = false := by
      rw [Bool.eq_false_iff, Ne, hhit]
      rintro ⟨py, px, hlit, hon⟩
      rw [hoff py px ((spriteLit_iff_mem ..).2 hlit)] at hon
      cases hon
    rw [hmiss]
    rfl

/-- Which pixels a sprite lights depends on its two registers, I and memory only. -/
theorem SpriteLit.congr {s t : State} {x y : Reg} {n : Nat} {py : Fin 32} {px : Fin 64} (hx : t.reg x = s.reg x)
    (hy : t.reg y = s.reg y) (hi : t.i = s.i) (hmem : ∀ a, t.mem.read a = s.mem.read a) :
    SpriteLit t x y n py px ↔ SpriteLit s x y n py px := by
  simp only [SpriteLit, hx, hy, hi, hmem]

/-- A sprite lights some pixel exactly when one of its rows has a 1 bit. -/
theorem exists_spriteLit_iff (s : State) (x y : Reg) (n : Nat) :
    (∃ py px, SpriteLit s x y n py px) ↔ ∃ r, r < n ∧ s.mem.read (indexAddr s + r) ≠ 0 := by
  constructor
  · rintro ⟨py, px, r, c, hr, -, hbit, -⟩
    refine ⟨r, hr, fun h0 => ?_⟩
    rw [indexAddr] at h0
    simp [h0] at hbit
  · rintro ⟨r, hr, hne⟩
    obtain ⟨k, hk, hbit⟩ : ∃ k, k < 8 ∧ (s.mem.read (indexAddr s + r)).getLsbD k = true := by
      by_contra hno
      push Not at hno
      exact hne (BitVec.eq_of_getLsbD_eq fun k hk => by simpa using hno k hk)
    refine ⟨⟨_, Nat.mod_lt _ (by omega)⟩, ⟨_, Nat.mod_lt _ (by omega)⟩, r, 7 - k, hr, by omega, ?_, rfl, rfl⟩
    rwa [show 7 - (7 - k) = k by omega]

/-- Settles O48: the first draw leaves all that the sprite depends on, so the second one lights the same pixels and
sees each of them flipped; both draws are single draws in the sense of O47. -/
theorem drawingTwiceRestoresTheFramebuffer : Obligations.DrawingTwiceRestoresTheFramebuffer := by
  intro x y n s hn hx hy hread
  obtain ⟨t, ht, hflip, hkeep, -, -, hframe⟩ := drawFlipsTheLitPixels x y n s hn hread
  have hreg : ∀ r : Reg, r ≠ 15 → t.reg r = s.reg r := fun r hr => hframe (.reg r) (by simp [hr])
  have hi : t.i = s.i := hframe .index (by rintro (h | ⟨_, _, h⟩) <;> cases h)
  have hmem : ∀ a, t.mem.read a = s.mem.read a := fun a => hframe (.byte a) (by rintro (h | ⟨_, _, h⟩) <;> cases h)
  have hlit : ∀ py px, SpriteLit t x y n py px ↔ SpriteLit s x y n py px := fun _ _ =>
    SpriteLit.congr (hreg x hx) (hreg y hy) hi hmem
  obtain ⟨u, hu, hflip2, hkeep2, hon, hoff, -⟩ := drawFlipsTheLitPixels x y n t hn (by rwa [indexAddr, hi])
  simp only [hlit] at hflip2 hkeep2 hon hoff
  have hflag : u.reg 15 = 1 ↔ ∃ py px, SpriteLit s x y n py px ∧ pixel s.fb py px = false := by
    constructor
    · intro h1
      by_contra hno
      push Not at hno
      have h0 := hoff fun py px hl => by simpa [hflip py px hl] using hno py px hl
      rw [h0] at h1
      cases h1
    · rintro ⟨py, px, hl, hpix⟩
      exact hon ⟨py, px, hl, by rw [hflip py px hl, hpix]; rfl⟩
  refine ⟨t, u, ht, hu, frame_ext _ _ fun py px => ?_, hflag, fun hall => ?_⟩
  · by_cases hl : SpriteLit s x y n py px
    · rw [hflip2 py px hl, hflip py px hl, Bool.not_not]
    · rw [hkeep2 py px hl, hkeep py px hl]
  · rw [hflag, ← exists_spriteLit_iff s x y n]
    exact exists_congr fun py => exists_congr fun px => and_iff_left_of_imp (hall py px)

/-! ## Key pad and timers -/

/-- Settles O49: each instruction is a `skipIf` on the key that the low nibble names. -/
theorem keySkipsTestTheLowNibble : Obligations.KeySkipsTestTheLowNibble := by
  intro x s
  rw [← keyOf_eq]
  constructor
  · exact ⟨_, exec_of_effect (.skp x), skipIf_pc _ s, onlyChanges_skipIf _ s⟩
  · refine ⟨_, exec_of_effect (.sknp x), ?_, onlyChanges_skipIf _ s⟩
    rw [skipIf_pc]
    cases s.keyDown (keyOf s x) <;> rfl

/-- Settles O51, from the effect of FX07. -/
theorem readDelayTimer : Obligations.ReadDelayTimer := fun x s =>
  ⟨_, exec_of_effect (.ldVxDt x), reg_setReg_same s x _, onlyChanges_setReg s x _⟩

/-- Settles O52, from the effect of FX15. -/
theorem setDelayTimer : Obligations.SetDelayTimer := fun x s =>
  ⟨_, exec_of_effect (.ldDtVx x), rfl, onlyChanges_delay s _⟩

/-- Settles O53: the tone is on exactly when ST is not 0. -/
theorem setSoundTimerAndTone : Obligations.SetSoundTimerAndTone := by
  intro x s
  refine ⟨_, exec_of_effect (.ldStVx x), rfl, ?_, onlyChanges_sound s _⟩
  rw [State.tone, decide_eq_true_eq, Nat.pos_iff_ne_zero, ne_eq, ne_eq, ← BitVec.toNat_inj]
  rfl

/-- Settles O55, mode by mode. -/
theorem keyPressSetsTheBitAndEndsAWait : Obligations.KeyPressSetsTheBitAndEndsAWait := by
  intro k s
  refine ⟨fun hm => ?_, fun x hm => ?_, perform_keyPress_faulted k⟩
  · exact ⟨_, perform_keyPress_running k hm, keyDown_set_same s k true, onlyChanges_keys s k true⟩
  · refine ⟨_, perform_keyPress_waiting k hm, keyDown_set_same s k true, ?_, rfl, onlyChanges_keyPress s x k _ _⟩
    exact (congrArg BitVec.toNat (reg_setReg_same s x _)).trans (keyNumber_toNat k)

/-- Settles O50: FX0A starts a wait, in which `Step()` does nothing (O9) and a key press does what O55 says. -/
theorem waitEndsAtTheNextKeyPress : Obligations.WaitEndsAtTheNextKeyPress := by
  intro x k s
  refine ⟨_, exec_of_effect (.ldVxK x), rfl, onlyChanges_mode s _, stepOutsideRunningChangesNothing.1 _ x rfl, ?_⟩
  obtain ⟨-, hwait, -⟩ := keyPressSetsTheBitAndEndsAWait k { s with mode := .waitingForKey x }
  obtain ⟨u, hu, hkey, hreg, hmode, hframe⟩ := hwait x rfl
  refine ⟨u, hu, hreg, hkey, hmode, fun p hp => ?_⟩
  simp only [not_or] at hp
  obtain ⟨hpmode, hpreg, hpkey⟩ := hp
  have := hframe p (by simp [*])
  cases p with
  | mode => exact absurd rfl hpmode
  | _ => exact this

/-! ## Reset -/

/-- Settles O58: the length check of `Reset`. -/
theorem resetRefusesALongerProgram : Obligations.ResetRefusesALongerProgram := fun _ s h =>
  ⟨_, congrArg Host.Outcome.next (if_pos h), raise_mode s _⟩

/-- Settles O57: the fields are those of `State.reset`; memory is the image written over unwritten memory. -/
theorem resetLoadsTheProgram : Obligations.ResetLoadsTheProgram := by
  intro program s h
  refine ⟨loadedState program s, congrArg Host.Outcome.next (if_neg (Nat.not_lt.2 h)), fun r => ?_, rfl, rfl, rfl, rfl,
    rfl, rfl, pixel_clearFrame, fun k => ?_, fun j hj => read_loadedState_program program s hj, fun j hj => ?_,
    fun a ha => ?_⟩
  · simp [State.reg, loadedState, State.reset]
  · simp [State.keyDown, loadedState, State.reset]
  · rw [read_loadedState_outside program s (by omega), unlistedByte_font j hj]
  · rw [read_loadedState_outside program s (by omega), unlistedByte_zero a (by omega)]

/-! ## A glyph of the font, drawn (R303, R316) -/

/-- The sprite of the glyph `g`, drawn at the top left from unwritten memory, lights pixel (column c, row r) exactly
when bit `7 - c` of the glyph's byte `r` is 1. -/
theorem spriteLit_glyph {s : State} {y : Reg} {g : Nat} (hg : g < 16) (hmem : ∀ a, s.mem.read a = unlistedByte a)
    (hi : s.i.toNat = 0x050 + 5 * g) (hy : s.reg y = 0) (r : Fin 32) (c : Fin 64) :
    SpriteLit s y y 5 r c ↔ r.val < 5 ∧ c.val < 8 ∧ (font.getD (5 * g + r.val) 0).getLsbD (7 - c.val) = true := by
  have hbyte : ∀ k, k < 5 → s.mem.read (s.i.toNat + k) = font.getD (5 * g + k) 0 := by
    intro k hk
    rw [hmem, hi, Nat.add_assoc, unlistedByte_font _ (by omega)]
  have hzero : (s.reg y).toNat = 0 := by rw [hy]; rfl
  simp only [SpriteLit, hzero, Nat.zero_mod, Nat.zero_add]
  constructor
  · rintro ⟨k, d, hk, hd, hbit, hcol, hrow⟩
    obtain rfl : d = c.val := by omega
    obtain rfl : k = r.val := by omega
    exact ⟨hk, hd, by rwa [← hbyte _ hk]⟩
  · rintro ⟨hr, hc, hbit⟩
    exact ⟨r.val, c.val, hr, hc, by rwa [hbyte _ hr], by omega, by omega⟩

/-- Settles O59: FX29 points I at the glyph in unwritten memory, and a draw on a clear screen turns on exactly the
pixels the sprite lights. -/
theorem glyphIsDrawnFromResetMemory : Obligations.GlyphIsDrawnFromResetMemory := by
  intro x y s hmem hfb hy
  obtain ⟨t, ht, hi, hframe⟩ := glyphAddressOfTheLowNibble x s
  have hread : ∀ a, t.mem.read a = unlistedByte a := fun a => (hframe (.byte a) nofun).trans (by rw [hmem, Memory.read])
  have hclear : ∀ py px, pixel t.fb py px = false := fun py px =>
    (hframe (.pixel py px) nofun).trans (by rw [hfb, pixel_clearFrame])
  have hglyph := spriteLit_glyph (Nat.mod_lt _ (by omega)) hread hi ((hframe (.reg y) nofun).trans hy)
  obtain ⟨u, hu, hflip, hkeep, -, hoff, -⟩ := drawFlipsTheLitPixels y y 5 t (by omega)
    (.inr (by rw [indexAddr, hi]; omega))
  refine ⟨t, u, ht, hu, hoff fun py px _ => hclear py px, fun r c => ?_⟩
  rw [Bool.eq_iff_iff, Bool.and_eq_true, Bool.and_eq_true, decide_eq_true_eq, decide_eq_true_eq, and_assoc,
    ← hglyph r c]
  by_cases hl : SpriteLit t y y 5 r c
  · simp [hflip r c hl, hclear, hl]
  · simp [hkeep r c hl, hclear, hl]

end Sys2Proof.Machine
